-- ==== Sys2Proof/Word.lean ====
section
/-! DEFINITION. The word types of the core. Every quantity of this hardware is unsigned (00_scope.md R6, 42_alu.md R145). -/

namespace Sys2Proof

/-- An 8-bit quantity: a general register, a timer, a byte of memory, an immediate `kk` (10_state.md R20, R29). -/
abbrev Byte := BitVec 8

/-- A 16-bit quantity: an instruction word, `pc`, `I`, a return-stack slot (10_state.md R24, R26, R27, R30). -/
abbrev Word := BitVec 16

/-- The 12-bit immediate `nnn` (30_encoding.md R72). -/
abbrev Imm12 := BitVec 12

/-- The number of a general register, 0 to 15: the operand fields `x` and `y` (30_encoding.md R72, R73). -/
abbrev RegIdx := Fin 16

/-- One snapshot of the hex pad: `keys[k]` is true when key `k` is held down (10_state.md R31, 45_keypad_timers.md R198). -/
abbrev Keypad := Vector Bool 16

/-- The framebuffer: 32 rows of 64 one-bit pixels, `fb[y][x]`; row 0 is the top, column 0 the left edge (10_state.md R32). -/
abbrev Framebuffer := Vector (Vector Bool 64) 32

end Sys2Proof
end

