-- ==== Sys2Proof/Syntax.lean ====
section
/-! DEFINITION. The 34 instructions of 30_encoding.md R75, in the order of the spec's opcode table. -/

namespace Sys2Proof

/-- An instruction, one constructor per row of the opcode table. Each operand has the type of its field (R72):
`x`, `y` register numbers, `kk` 8 bits, `nnn` 12 bits, `n` a row count 0 to 15. -/
inductive Instr where
  /-- `00E0` CLS -/
  | cls
  /-- `00EE` RET -/
  | ret
  /-- `1nnn` JP nnn -/
  | jp (nnn : Imm12)
  /-- `2nnn` CALL nnn -/
  | call (nnn : Imm12)
  /-- `3xkk` SE Vx,kk -/
  | seImm (x : RegIdx) (kk : Byte)
  /-- `4xkk` SNE Vx,kk -/
  | sneImm (x : RegIdx) (kk : Byte)
  /-- `5xy0` SE Vx,Vy -/
  | seReg (x y : RegIdx)
  /-- `6xkk` LD Vx,kk -/
  | ldImm (x : RegIdx) (kk : Byte)
  /-- `7xkk` ADD Vx,kk -/
  | addImm (x : RegIdx) (kk : Byte)
  /-- `8xy0` LD Vx,Vy -/
  | ldReg (x y : RegIdx)
  /-- `8xy1` OR Vx,Vy -/
  | orReg (x y : RegIdx)
  /-- `8xy2` AND Vx,Vy -/
  | andReg (x y : RegIdx)
  /-- `8xy3` XOR Vx,Vy -/
  | xorReg (x y : RegIdx)
  /-- `8xy4` ADD Vx,Vy -/
  | addReg (x y : RegIdx)
  /-- `8xy5` SUB Vx,Vy -/
  | subReg (x y : RegIdx)
  /-- `8xy6` SHR Vx: the `y` field is part of the word and selects no operand (R77) -/
  | shr (x y : RegIdx)
  /-- `8xy7` SUBN Vx,Vy -/
  | subnReg (x y : RegIdx)
  /-- `8xyE` SHL Vx: the `y` field is part of the word and selects no operand (R77) -/
  | shl (x y : RegIdx)
  /-- `9xy0` SNE Vx,Vy -/
  | sneReg (x y : RegIdx)
  /-- `Annn` LD I,nnn -/
  | ldI (nnn : Imm12)
  /-- `Bnnn` JP V0,nnn -/
  | jpV0 (nnn : Imm12)
  /-- `Cxkk` RND Vx,kk -/
  | rnd (x : RegIdx) (kk : Byte)
  /-- `Dxyn` DRW Vx,Vy,n -/
  | drw (x y : RegIdx) (n : Fin 16)
  /-- `Ex9E` SKP Vx -/
  | skp (x : RegIdx)
  /-- `ExA1` SKNP Vx -/
  | sknp (x : RegIdx)
  /-- `Fx07` LD Vx,DT -/
  | ldVxDT (x : RegIdx)
  /-- `Fx0A` LD Vx,K -/
  | ldVxK (x : RegIdx)
  /-- `Fx15` LD DT,Vx -/
  | ldDTVx (x : RegIdx)
  /-- `Fx18` LD ST,Vx -/
  | ldSTVx (x : RegIdx)
  /-- `Fx1E` ADD I,Vx -/
  | addI (x : RegIdx)
  /-- `Fx29` LD F,Vx -/
  | ldF (x : RegIdx)
  /-- `Fx33` LD B,Vx -/
  | ldB (x : RegIdx)
  /-- `Fx55` LD [I],Vx -/
  | storeRegs (x : RegIdx)
  /-- `Fx65` LD Vx,[I] -/
  | loadRegs (x : RegIdx)
  deriving DecidableEq, Repr

end Sys2Proof
end

