-- ==== Sys2Proof/Decode.lean ====
section
/-! DEFINITION. The opcode decoder (30_encoding.md R71 to R74), total on any bytes and rejecting by name, and the encoder. -/

namespace Sys2Proof

/-- Why bytes are no instruction. -/
inductive DecodeReject where
  /-- The word matches none of the 34 patterns (R78). -/
  | unknownOpcode (w : Word)
  /-- Fewer than the two bytes of an instruction (R70). -/
  | truncated
  deriving DecidableEq, Repr

/-- `nib3 = opcode[15:12]` (00_scope.md R6). -/
def nib3 (w : Word) : BitVec 4 := w.extractLsb' 12 4

/-- `nib2 = opcode[11:8]` (R6). -/
def nib2 (w : Word) : BitVec 4 := w.extractLsb' 8 4

/-- `nib1 = opcode[7:4]` (R6). -/
def nib1 (w : Word) : BitVec 4 := w.extractLsb' 4 4

/-- `nib0 = opcode[3:0]` (R6). -/
def nib0 (w : Word) : BitVec 4 := w.extractLsb' 0 4

/-- Operand field `x`, a register index (R72). -/
def fieldX (w : Word) : RegIdx := (nib2 w).toFin

/-- Operand field `y`, a register index (R72). -/
def fieldY (w : Word) : RegIdx := (nib1 w).toFin

/-- Operand field `n` (R72). -/
def fieldN (w : Word) : Fin 16 := (nib0 w).toFin

/-- Operand field `kk`, bits 7:0 (R72). -/
def fieldKK (w : Word) : Byte := w.extractLsb' 0 8

/-- Operand field `nnn`, bits 11:0 (R72). -/
def fieldNNN (w : Word) : Imm12 := w.extractLsb' 0 12

/-- `nib3 = 0`: "the whole word must equal 0x00E0 or 0x00EE" (R74). -/
def decodeGroup0 (w : Word) : Except DecodeReject Instr :=
  match w.toNat with
  | 0x00E0 => .ok .cls
  | 0x00EE => .ok .ret
  | _ => .error (.unknownOpcode w)

/-- `nib3 = 8`: "`nib0` selects among {0, 1, 2, 3, 4, 5, 6, 7, E}" (R74). -/
def decodeGroup8 (w : Word) : Except DecodeReject Instr :=
  match (nib0 w).toNat with
  | 0x0 => .ok (.ldReg (fieldX w) (fieldY w))
  | 0x1 => .ok (.orReg (fieldX w) (fieldY w))
  | 0x2 => .ok (.andReg (fieldX w) (fieldY w))
  | 0x3 => .ok (.xorReg (fieldX w) (fieldY w))
  | 0x4 => .ok (.addReg (fieldX w) (fieldY w))
  | 0x5 => .ok (.subReg (fieldX w) (fieldY w))
  | 0x6 => .ok (.shr (fieldX w) (fieldY w))
  | 0x7 => .ok (.subnReg (fieldX w) (fieldY w))
  | 0xE => .ok (.shl (fieldX w) (fieldY w))
  | _ => .error (.unknownOpcode w)

/-- `nib3 = E`: "the low byte `kk` must be 0x9E or 0xA1" (R74). -/
def decodeGroupE (w : Word) : Except DecodeReject Instr :=
  match (fieldKK w).toNat with
  | 0x9E => .ok (.skp (fieldX w))
  | 0xA1 => .ok (.sknp (fieldX w))
  | _ => .error (.unknownOpcode w)

/-- `nib3 = F`: the low byte selects among nine values (R74). -/
def decodeGroupF (w : Word) : Except DecodeReject Instr :=
  match (fieldKK w).toNat with
  | 0x07 => .ok (.ldVxDT (fieldX w))
  | 0x0A => .ok (.ldVxK (fieldX w))
  | 0x15 => .ok (.ldDTVx (fieldX w))
  | 0x18 => .ok (.ldSTVx (fieldX w))
  | 0x1E => .ok (.addI (fieldX w))
  | 0x29 => .ok (.ldF (fieldX w))
  | 0x33 => .ok (.ldB (fieldX w))
  | 0x55 => .ok (.storeRegs (fieldX w))
  | 0x65 => .ok (.loadRegs (fieldX w))
  | _ => .error (.unknownOpcode w)

/-- `nib3` in {5, 9}: "`nib0` must be 0" (R74). -/
def requireNib0Zero (w : Word) (i : Instr) : Except DecodeReject Instr :=
  if nib0 w = 0 then .ok i else .error (.unknownOpcode w)

/-- The decoding procedure of R74: select on `nib3`. -/
def decode (w : Word) : Except DecodeReject Instr :=
  match (nib3 w).toNat with
  | 0x0 => decodeGroup0 w
  | 0x1 => .ok (.jp (fieldNNN w))
  | 0x2 => .ok (.call (fieldNNN w))
  | 0x3 => .ok (.seImm (fieldX w) (fieldKK w))
  | 0x4 => .ok (.sneImm (fieldX w) (fieldKK w))
  | 0x5 => requireNib0Zero w (.seReg (fieldX w) (fieldY w))
  | 0x6 => .ok (.ldImm (fieldX w) (fieldKK w))
  | 0x7 => .ok (.addImm (fieldX w) (fieldKK w))
  | 0x8 => decodeGroup8 w
  | 0x9 => requireNib0Zero w (.sneReg (fieldX w) (fieldY w))
  | 0xA => .ok (.ldI (fieldNNN w))
  | 0xB => .ok (.jpV0 (fieldNNN w))
  | 0xC => .ok (.rnd (fieldX w) (fieldKK w))
  | 0xD => .ok (.drw (fieldX w) (fieldY w) (fieldN w))
  | 0xE => decodeGroupE w
  | 0xF => decodeGroupF w
  | _ => .error (.unknownOpcode w)

/-- The word of two consecutive bytes: "the byte at the lower address is the high byte" (20_memory.md R55). -/
def wordOfBytes (hi lo : Byte) : Word := hi ++ lo

/-- The byte at an instruction word's lower address (20_memory.md R55). -/
def highByte (w : Word) : Byte := w.extractLsb' 8 8

/-- The byte at an instruction word's higher address (20_memory.md R55). -/
def lowByte (w : Word) : Byte := w.extractLsb' 0 8

/-- Decoding a list of bytes: the instruction and the bytes after it; every instruction is two bytes long (R70). -/
def decodeBytes : List Byte → Except DecodeReject (Instr × List Byte)
  | hi :: lo :: rest =>
    match decode (wordOfBytes hi lo) with
    | .ok i => .ok (i, rest)
    | .error e => .error e
  | _ => .error .truncated

/-- A word of four nibbles, most significant first: formats XY and XYN (R71). -/
def packNibbles (n3 n2 n1 n0 : BitVec 4) : Word := n3 ++ n2 ++ n1 ++ n0

/-- A word of format XK, and of format X with its fixed low byte: nibble, register, byte (R71). -/
def packXK (n3 : BitVec 4) (x : RegIdx) (kk : Byte) : Word := n3 ++ BitVec.ofFin (w := 4) x ++ kk

/-- A word of format XY or XYN (R71). -/
def packXYN (n3 : BitVec 4) (x y : RegIdx) (n : BitVec 4) : Word :=
  packNibbles n3 (BitVec.ofFin (w := 4) x) (BitVec.ofFin (w := 4) y) n

/-- A word of format A (R71). -/
def packA (n3 : BitVec 4) (nnn : Imm12) : Word := n3 ++ nnn

/-- The encoder: the word of an instruction, from the formats of R71 and the patterns of R75. -/
def encode : Instr → Word
  | .cls => 0x00E0
  | .ret => 0x00EE
  | .jp nnn => packA 0x1 nnn
  | .call nnn => packA 0x2 nnn
  | .seImm x kk => packXK 0x3 x kk
  | .sneImm x kk => packXK 0x4 x kk
  | .seReg x y => packXYN 0x5 x y 0x0
  | .ldImm x kk => packXK 0x6 x kk
  | .addImm x kk => packXK 0x7 x kk
  | .ldReg x y => packXYN 0x8 x y 0x0
  | .orReg x y => packXYN 0x8 x y 0x1
  | .andReg x y => packXYN 0x8 x y 0x2
  | .xorReg x y => packXYN 0x8 x y 0x3
  | .addReg x y => packXYN 0x8 x y 0x4
  | .subReg x y => packXYN 0x8 x y 0x5
  | .shr x y => packXYN 0x8 x y 0x6
  | .subnReg x y => packXYN 0x8 x y 0x7
  | .shl x y => packXYN 0x8 x y 0xE
  | .sneReg x y => packXYN 0x9 x y 0x0
  | .ldI nnn => packA 0xA nnn
  | .jpV0 nnn => packA 0xB nnn
  | .rnd x kk => packXK 0xC x kk
  | .drw x y n => packXYN 0xD x y (BitVec.ofFin (w := 4) n)
  | .skp x => packXK 0xE x 0x9E
  | .sknp x => packXK 0xE x 0xA1
  | .ldVxDT x => packXK 0xF x 0x07
  | .ldVxK x => packXK 0xF x 0x0A
  | .ldDTVx x => packXK 0xF x 0x15
  | .ldSTVx x => packXK 0xF x 0x18
  | .addI x => packXK 0xF x 0x1E
  | .ldF x => packXK 0xF x 0x29
  | .ldB x => packXK 0xF x 0x33
  | .storeRegs x => packXK 0xF x 0x55
  | .loadRegs x => packXK 0xF x 0x65

/-- The bytes of an instruction in address order (20_memory.md R55). -/
def encodeBytes (i : Instr) : List Byte := [highByte (encode i), lowByte (encode i)]

/-- The bytes of a table word of `nbits` bits (bits above `nbits` zero), laid out as memory stores them. -/
def tableWordBytes (nbits w : Nat) : List Byte :=
  [highByte (BitVec.ofNat 16 (w % 2 ^ nbits)), lowByte (BitVec.ofNat 16 (w % 2 ^ nbits))]

/-- The instruction the decoder reads from an opcode-table word. -/
def decodeTableWord (nbits w : Nat) : Option Instr :=
  match decodeBytes (tableWordBytes nbits w) with
  | .ok (i, _) => some i
  | .error _ => none

end Sys2Proof
end

