-- ==== Sys2Proof/Config.lean ====
section
/-! DEFINITION. The constants of the hardware (00_scope.md R4) and the values the spec leaves free. -/

namespace Sys2Proof.Config

/-- Bytes of RAM: addresses 0x000 to 0xFFF (R4). -/
abbrev memorySize : Nat := 4096

/-- Program entry address, reset value of `pc`, first byte of a loaded ROM (R4). -/
abbrev romStart : Nat := 0x200

/-- Address of the first font byte (R4). -/
abbrev fontStart : Nat := 0x050

/-- Bytes per font glyph (R4). -/
abbrev fontGlyphBytes : Nat := 5

/-- Bytes of the whole font: 16 glyphs of 5 bytes (R4, "audited by the spec"). -/
abbrev fontBytes : Nat := 80

/-- Framebuffer columns (R4). -/
abbrev screenWidth : Nat := 64

/-- Framebuffer rows (R4). -/
abbrev screenHeight : Nat := 32

/-- Return-stack slots (R4). -/
abbrev stackDepth : Nat := 16

/-- The largest ROM: `MEMORY_SIZE - ROM_START` = 3584 (R4). -/
abbrev maxRom : Nat := memorySize - romStart

/-- Index of the flag register VF (R4). -/
abbrev flagReg : RegIdx := 15

/-- FREE VALUE (log entry 3): the random byte the host presents with a tick for which no input is already held in the
state; the argument is a counter, so that each draw is a fresh one (42_alu.md R146: "a free draw under no law"). -/
opaque rndInput : Nat → Byte

/-- FREE VALUE (log entry 3): the keypad snapshot the host presents with a tick for which no input is already held in
the state (60_exceptions.md R226); the argument is a counter. -/
opaque keypadInput : Nat → Keypad

end Sys2Proof.Config
end

