-- ==== Sys2Proof/Machine/State.lean ====
section
/-! DEFINITION. The state of the core (10_state.md R20 to R34), the model's own record of the host's side, and reset. -/

namespace Sys2Proof.Machine

/-- RAM as plain data: the cells whose byte differs from the byte the address holds after reset, addresses strictly
rising (`Memory.wf`); what an unlisted address reads as is `Memory.resetByte` (20_memory.md R59; log entry 6). -/
abbrev Memory := List Host.Cell

/-- The four run-time fault kinds a tick can raise (60_exceptions.md R210; 10_state.md R34). -/
inductive FaultCause where
  /-- code 1: the fetched word matches none of the 34 patterns (R211) -/
  | unknownOpcode
  /-- code 2: `00EE` with `SP = 0` (R212) -/
  | stackUnderflow
  /-- code 3: `2nnn` with `SP = 16` (R213) -/
  | stackOverflow
  /-- code 5: an effective address of 4096 or more (R214) -/
  | addressOutOfRange
  deriving DecidableEq, Repr

/-- What the fault latch records: `(cause, opcode, pc_at_fetch)` (10_state.md R34). -/
structure FaultRecord where
  cause : FaultCause
  opcode : Word
  pcAtFetch : Word
  deriving DecidableEq, Repr

/-- The two data inputs of one tick: `keypad_in` and `rnd` (40_tick_fetch_dispatch.md R90). -/
structure TickInput where
  keys : Keypad
  rnd : Byte
  deriving DecidableEq, Repr

/-- Where the host stands in the boot sequence "reset; `load_rom(bytes)` once; then ticks" (70_reset_and_hazards.md R243). -/
inductive BootPhase where
  | afterReset
  /-- `load_rom` has been called, whether or not its image fitted: "at most once" (60_exceptions.md R231) -/
  | loaded
  | running
  deriving DecidableEq, Repr

/-- What the loader reports on its status output `load_err` (60_exceptions.md R215, R230). -/
inductive LoadError where
  /-- code 4: an image longer than 3584 bytes (R215) -/
  | romTooLarge
  deriving DecidableEq, Repr

/-- THE MODEL'S OWN fields, no state of the core: the host's side of the ports (log entries 3, 4 and 8). -/
structure HostSide where
  /-- inputs the host is already known to present with the next ticks, oldest first; when empty, the next is free -/
  inputs : List TickInput
  /-- how many ticks have taken an input: the argument of the free values, so that each draw is fresh -/
  drawn : Nat
  /-- the byte on the random port during the tick being executed (60_exceptions.md R229) -/
  rnd : Byte
  boot : BootPhase
  /-- the status output `load_err`: what the `load_rom` since the last reset reported; `none` when it reported no error
  or there was none (60_exceptions.md R215, R230; log entry 8) -/
  loadErr : Option LoadError
  deriving DecidableEq, Repr

/-- The whole state: 10_state.md R20 to R34 under the spec's names, and the model's own `host`. -/
structure State where
  /-- general registers V0 to VF (R20) -/
  V : Vector Byte 16
  /-- index register (R26) -/
  I : Word
  /-- program counter (R24) -/
  pc : Word
  /-- stack pointer: the next free slot, 0 to 16 (R28; log entry 7) -/
  SP : Fin 17
  /-- return stack (R27) -/
  stack : Vector Word 16
  /-- delay timer (R29) -/
  DT : Byte
  /-- sound timer (R29) -/
  ST : Byte
  /-- opcode latch (R30) -/
  opcode : Word
  /-- keypad latch (R31) -/
  key : Keypad
  /-- framebuffer (R32) -/
  fb : Framebuffer
  /-- RAM (R33) -/
  mem : Memory
  /-- fault latch (R34) -/
  fault : Option FaultRecord
  /-- the model's own: the host's side of the ports -/
  host : HostSide
  deriving DecidableEq, Repr

/-- Why the machine stops with a fault instead of answering a next state: never, so there is no constructor. The four
run-time kinds are taken, as the spec describes, by setting the fault latch (log entry 1), and the loader's error is
reported on `load_err` (R215). -/
inductive Fault where
  deriving DecidableEq, Repr

/-- Why the model has no meaning for what it is asked. -/
inductive Refusal where
  /-- An instruction the model gives no meaning. No arm of `exec` answers it: all 34 instructions are modelled. -/
  | notModelled (mnemonic : String)
  /-- Raised by `loadRom` alone, for a load that is not the first one between a reset and the first tick: "a model
  should have no transition for it" (70_reset_and_hazards.md R247). Safe. -/
  | loadOutsideBoot
  deriving DecidableEq, Repr

/-- All pixels 0 (R36; 44_display.md R181). -/
def blankScreen : Framebuffer := Vector.replicate 32 (Vector.replicate 64 false)

/-- No key down (R36). -/
def noKeys : Keypad := Vector.replicate 16 false

/-- The host's side right after reset: nothing known of the inputs to come (log entries 3, 4, 8). -/
def HostSide.reset : HostSide := { inputs := [], drawn := 0, rnd := 0, boot := .afterReset, loadErr := none }

/-- The machine right after reset (R36): everything zero but `pc = ROM_START`; `mem` lists nothing, so it reads as
its reset contents, the font and zeros (R59). -/
def State.reset : State :=
  { V := Vector.replicate 16 0
    I := 0
    pc := BitVec.ofNat 16 Config.romStart
    SP := 0
    stack := Vector.replicate 16 0
    DT := 0
    ST := 0
    opcode := 0
    key := noKeys
    fb := blankScreen
    mem := []
    fault := none
    host := HostSide.reset }

end Sys2Proof.Machine
end

