-- ==== Sys2Proof/Machine/Flags.lean ====
section
/-! DEFINITION. The flag computations: each of the six conditions under which VF is written 1 (10_state.md R22). -/

namespace Sys2Proof.Machine

/-- "always exactly 0 or 1 as an 8-bit value" (10_state.md R22). -/
def flagByte (f : Bool) : Byte := if f then 1 else 0

/-- `8xy4`: 1 if the pre-truncation sum exceeds 255 (42_alu.md R138). -/
def carryFlag (a b : Byte) : Bool := decide (a.toNat + b.toNat > 255)

/-- `8xy5` and, with the roles swapped, `8xy7`: 1 if the minuend is strictly greater (42_alu.md R139, R140, R142). -/
def notBorrowFlag (minuend subtrahend : Byte) : Bool := decide (minuend.toNat > subtrahend.toNat)

/-- `8xy6`: the bit shifted out, old bit 0 (42_alu.md R141). -/
def shiftRightFlag (a : Byte) : Bool := a.getLsbD 0

/-- `8xyE`: the bit shifted out, old bit 7 (42_alu.md R143). -/
def shiftLeftFlag (a : Byte) : Bool := a.getLsbD 7

/-- `Dxyn`: a sprite bit that is 1 lands on a pixel that is 1 (44_display.md R185). -/
def collisionFlag (bit pixel : Bool) : Bool := bit && pixel

end Sys2Proof.Machine
end

