-- ==== Sys2Proof/Machine/Memory.lean ====
section
/-! DEFINITION. RAM: its reset contents, its canonical form, and the byte accesses everything else is built from. -/

namespace Sys2Proof.Machine

/-- What an address reads as when nothing has written it: the contents after reset, FONT at 0x050 to 0x09F and 0
everywhere else (20_memory.md R58, R59). -/
def Memory.resetByte (a : Nat) : Byte :=
  if Config.fontStart ≤ a then font.getD (a - Config.fontStart) 0 else 0

/-- The canonical form of RAM: addresses below 4096, strictly rising, no cell equal to its reset contents. -/
def Memory.wf : Memory → Bool
  | [] => true
  | [(a, b)] => decide (a < Config.memorySize) && b != Memory.resetByte a
  | (a, b) :: (a', b') :: rest =>
    decide (a < a') && b != Memory.resetByte a && Memory.wf ((a', b') :: rest)

/-- The byte at an address below 4096; the range check is the caller's (R52). -/
def Memory.read : Memory → Nat → Byte
  | [], a => Memory.resetByte a
  | (k, v) :: rest, a => if a = k then v else Memory.read rest a

/-- The cells other than the one at `a`. -/
def Memory.erase : Memory → Nat → Memory
  | [], _ => []
  | (k, v) :: rest, a => if a = k then Memory.erase rest a else (k, v) :: Memory.erase rest a

/-- A cell put before the first one of a higher address. -/
def Memory.insert : Memory → Nat → Byte → Memory
  | [], a, b => [(a, b)]
  | (k, v) :: rest, a, b => if a < k then (a, b) :: (k, v) :: rest else (k, v) :: Memory.insert rest a b

/-- Store one byte at an address below 4096 (R56); the canonical form is kept. -/
def Memory.write (m : Memory) (a : Nat) (b : Byte) : Memory :=
  if b = Memory.resetByte a then m.erase a else (m.erase a).insert a b

/-- Store bytes at consecutive addresses, in ascending order (R66). -/
def Memory.writeBytes : Memory → Nat → List Byte → Memory
  | m, _, [] => m
  | m, a, b :: bs => Memory.writeBytes (m.write a b) (a + 1) bs

/-- The `n` bytes from an address on, in ascending order (R66). -/
def Memory.readBytes (m : Memory) (a : Nat) : Nat → List Byte
  | 0 => []
  | n + 1 => m.read a :: Memory.readBytes m (a + 1) n

end Sys2Proof.Machine
end

