-- ==== Sys2Proof/Machine/Operands.lean ====
section
/-! DEFINITION. The operand forms (30_encoding.md R73): general register, implicit register, key, data bytes at `I`. -/

namespace Sys2Proof.Machine

/-- The value of general register `V[x]` (10_state.md R20, R21: every register is an ordinary one). -/
def State.reg (s : State) (x : RegIdx) : Byte := s.V[x]

/-- `v & 0xF` as an index: only the low nibble counts (43_index_memory.md R163; 45_keypad_timers.md R198). -/
def lowNibble (v : Byte) : Fin 16 := (v.extractLsb' 0 4).toFin

/-- The key an instruction selects with a register: `key[V[x] & 0xF]` (45_keypad_timers.md R191, R198). -/
def State.keyOf (s : State) (x : RegIdx) : Bool := s.key[lowNibble (s.reg x)]

/-- The least pressed key, if any: "scan `keypad[0..16]` in ascending index order" (45_keypad_timers.md R196). -/
def State.firstKey (s : State) : Option (Fin 16) := (List.finRange 16).find? fun k => s.key[k]

/-- The effective address of a data access, `I + offset` on natural numbers, without wrap (20_memory.md R53). -/
def State.dataAddr (s : State) (offset : Nat) : Nat := s.I.toNat + offset

/-- The address check of a handler that uses the `n` bytes at `I`: with no byte it holds, else the last address
`I + (n - 1)` must be below 4096 (20_memory.md R52, R54; 43_index_memory.md R164; 44_display.md R186). -/
def State.dataInRange (s : State) (n : Nat) : Bool :=
  n == 0 || decide (s.dataAddr (n - 1) < Config.memorySize)

/-- The `n` data bytes at `I` (20_memory.md R51, R56). -/
def State.dataBytes (s : State) (n : Nat) : List Byte := s.mem.readBytes (s.dataAddr 0) n

/-- The values of `V[0]` to `V[x]`, in ascending order (43_index_memory.md R166). -/
def State.regsUpTo (s : State) (x : RegIdx) : List Byte := s.V.toList.take (x.val + 1)

/-- The font address of a hex digit, `FONT_START + FONT_GLYPH_BYTES * (v & 0xF)` (43_index_memory.md R163). -/
def glyphAddr (v : Byte) : Word := BitVec.ofNat 16 (Config.fontStart + Config.fontGlyphBytes * (lowNibble v).val)

/-- The decimal digits of a byte, hundreds, tens, ones: the BCD converter (43_index_memory.md R165). -/
def bcdDigits (v : Byte) : List Byte :=
  [BitVec.ofNat 8 (v.toNat / 100), BitVec.ofNat 8 (v.toNat / 10 % 10), BitVec.ofNat 8 (v.toNat % 10)]

end Sys2Proof.Machine
end

