-- ==== Sys2Proof/Machine/Ops.lean ====
section
/-! DEFINITION. The named updates of the state, and the shared operations of the handlers: register and flag writes,
skips, the return stack, data stores, the sprite engine, taking a fault, and reset as the only way out of one. -/

namespace Sys2Proof.Machine

/-- `V[x] <- b` (00_scope.md R7). -/
def State.setReg (s : State) (x : RegIdx) (b : Byte) : State := { s with V := s.V.set x b }

/-- Registers from `k` on take the listed bytes, in ascending order (43_index_memory.md R167). -/
def State.setRegsFrom : State → Nat → List Byte → State
  | s, _, [] => s
  | s, k, b :: bs => State.setRegsFrom { s with V := s.V.setIfInBounds k b } (k + 1) bs

def State.setI (s : State) (w : Word) : State := { s with I := w }
def State.setPc (s : State) (w : Word) : State := { s with pc := w }
def State.setDT (s : State) (b : Byte) : State := { s with DT := b }
def State.setST (s : State) (b : Byte) : State := { s with ST := b }
def State.setOpcode (s : State) (w : Word) : State := { s with opcode := w }
def State.setKeys (s : State) (k : Keypad) : State := { s with key := k }
def State.setFb (s : State) (f : Framebuffer) : State := { s with fb := f }
def State.setMem (s : State) (m : Memory) : State := { s with mem := m }
def State.setFault (s : State) (r : FaultRecord) : State := { s with fault := some r }
def State.setHost (s : State) (h : HostSide) : State := { s with host := h }

/-- The write order of the flag producers: the result to `V[x]`, then the flag to `V[15]`, so that for `x = 0xF` the
flag is what remains (42_alu.md R131; 10_state.md R23). -/
def State.setResultFlag (s : State) (x : RegIdx) (result : Byte) (flag : Bool) : State :=
  (s.setReg x result).setReg Config.flagReg (flagByte flag)

/-- "skip": `pc <- pc + 2` when the condition holds (00_scope.md R8; 41_control_flow.md R110). -/
def State.skipIf (s : State) (c : Bool) : State := if c then s.setPc (s.pc + 2) else s

/-- Push the return address `pc` in the next free slot (41_control_flow.md R113). -/
def State.pushPc (s : State) (h : s.SP.val < 16) : State :=
  { s with stack := s.stack.set s.SP.val s.pc, SP := ⟨s.SP.val + 1, Nat.succ_lt_succ h⟩ }

/-- Pop the newest return address into `pc`; the slot keeps its value (41_control_flow.md R111; 10_state.md R27). -/
def State.popPc (s : State) (h : 0 < s.SP.val) : State :=
  { s with
    SP := ⟨s.SP.val - 1, Nat.lt_of_le_of_lt (Nat.sub_le _ _) s.SP.isLt⟩
    pc := s.stack[s.SP.val - 1]'(by have := s.SP.isLt; omega) }

/-- Store bytes at `I`, `I + 1`, …; the caller has checked the range (20_memory.md R51, R54). -/
def State.storeData (s : State) (bs : List Byte) : State := s.setMem (s.mem.writeBytes (s.dataAddr 0) bs)

/-- TAKING A FAULT (60_exceptions.md R216): the latch records the cause, the current opcode latch and the value `pc`
had when the tick began; nothing else changes, and control goes nowhere. -/
def State.raise (s : State) (cause : FaultCause) (pcAtFetch : Word) : State :=
  s.setFault { cause := cause, opcode := s.opcode, pcAtFetch := pcAtFetch }

/-- A fault raised after the fetch has advanced `pc` past the word, by the dispatch or by a handler: "for every other
fault, `pc = pc_at_fetch + 2`" (60_exceptions.md R218; log entry 2). -/
def State.raiseInHandler (s : State) (cause : FaultCause) : State := s.raise cause (s.pc - 2)

/-- RESET, the only way out of the halted state (70_reset_and_hazards.md R240, R242): there is no return from a fault
(60_exceptions.md R220). The host's inputs to come are not the core's and stay (log entry 9). -/
def resetCore (s : State) : State :=
  State.reset.setHost { s.host with rnd := 0, boot := .afterReset, loadErr := none }

/-- The sprite XOR engine's work in progress: the framebuffer and the collision detector (44_display.md R185). -/
structure Canvas where
  fb : Framebuffer
  hit : Bool
  deriving DecidableEq, Repr

/-- Screen row of a row of a sprite: `(sy + row) mod 32` (44_display.md R182, R183). -/
def wrapRow (n : Nat) : Fin 32 := ⟨n % 32, Nat.mod_lt _ (by decide)⟩

/-- Screen column of a column of a sprite: `(sx + col) mod 64` (44_display.md R182, R183). -/
def wrapCol (n : Nat) : Fin 64 := ⟨n % 64, Nat.mod_lt _ (by decide)⟩

/-- `(byte >> (7 - col)) & 1`: column 0 is bit 7, the leftmost pixel (44_display.md R182). -/
def spriteBit (byte : Byte) (col : Nat) : Bool := byte.getLsbD (7 - col)

/-- One sprite bit on one pixel: the collision test, then the exclusive or (44_display.md R182). -/
def Canvas.drawBit (c : Canvas) (py : Fin 32) (px : Fin 64) (bit : Bool) : Canvas :=
  { fb := c.fb.set py (c.fb[py].set px (Bool.xor c.fb[py][px] bit))
    hit := c.hit || collisionFlag bit c.fb[py][px] }

/-- The columns of one sprite row from `col` on, `n` of them, in ascending order. -/
def Canvas.drawCols (c : Canvas) (byte : Byte) (sx : Nat) (py : Fin 32) (col : Nat) : Nat → Canvas
  | 0 => c
  | n + 1 => (c.drawBit py (wrapCol (sx + col)) (spriteBit byte col)).drawCols byte sx py (col + 1) n

/-- The rows of a sprite from `row` on, one per byte, each 8 pixels wide (44_display.md R182). -/
def Canvas.drawRows : Canvas → Nat → Nat → Nat → List Byte → Canvas
  | c, _, _, _, [] => c
  | c, sx, sy, row, byte :: rest =>
    Canvas.drawRows (c.drawCols byte sx (wrapRow (sy + row)) 0 8) sx sy (row + 1) rest

/-- A whole sprite drawn at column `sx`, row `sy`; the collision detector starts cleared (44_display.md R182, R185). -/
def drawSprite (fb : Framebuffer) (sx sy : Nat) (sprite : List Byte) : Canvas :=
  Canvas.drawRows { fb := fb, hit := false } sx sy 0 sprite

end Sys2Proof.Machine
end

