-- ==== Sys2Proof/Machine/ControlFlow.lean ====
section
/-! DEFINITION. The control-flow instructions (41_control_flow.md). At entry `pc` is the instruction's address plus 2 (R110). -/

namespace Sys2Proof.Machine

/-- `00EE` RET (R111): underflow is checked before any change. -/
def execRet (s : State) : Host.Outcome State Fault Refusal :=
  if h : 0 < s.SP.val then .next (s.popPc h) else .next (s.raiseInHandler .stackUnderflow)

/-- `1nnn` JP nnn (R112): `pc <- zext_16(nnn)`. -/
def execJp (nnn : Imm12) (s : State) : Host.Outcome State Fault Refusal := .next (s.setPc (nnn.zeroExtend 16))

/-- `2nnn` CALL nnn (R113): overflow is checked before any change. -/
def execCall (nnn : Imm12) (s : State) : Host.Outcome State Fault Refusal :=
  if h : s.SP.val < 16 then .next ((s.pushPc h).setPc (nnn.zeroExtend 16)) else .next (s.raiseInHandler .stackOverflow)

/-- `3xkk` SE Vx,kk (R114). -/
def execSeImm (x : RegIdx) (kk : Byte) (s : State) : Host.Outcome State Fault Refusal :=
  .next (s.skipIf (s.reg x == kk))

/-- `4xkk` SNE Vx,kk (R115). -/
def execSneImm (x : RegIdx) (kk : Byte) (s : State) : Host.Outcome State Fault Refusal :=
  .next (s.skipIf (s.reg x != kk))

/-- `5xy0` SE Vx,Vy (R116). -/
def execSeReg (x y : RegIdx) (s : State) : Host.Outcome State Fault Refusal :=
  .next (s.skipIf (s.reg x == s.reg y))

/-- `9xy0` SNE Vx,Vy (R117). -/
def execSneReg (x y : RegIdx) (s : State) : Host.Outcome State Fault Refusal :=
  .next (s.skipIf (s.reg x != s.reg y))

/-- `Bnnn` JP V0,nnn (R118): the sum is never reduced to 12 bits. -/
def execJpV0 (nnn : Imm12) (s : State) : Host.Outcome State Fault Refusal :=
  .next (s.setPc ((s.reg 0).zeroExtend 16 + nnn.zeroExtend 16))

end Sys2Proof.Machine
end

