-- ==== Sys2Proof/Machine/Display.lean ====
section
/-! DEFINITION. The display instructions (44_display.md), the only writers of the framebuffer (R180). -/

namespace Sys2Proof.Machine

/-- `00E0` CLS (R181). -/
def execCls (s : State) : Host.Outcome State Fault Refusal := .next (s.setFb blankScreen)

/-- The canvas a `Dxyn` leaves: the sprite at `I`, drawn at the column and row its registers held before VF is cleared
(R182, R183, R185). -/
def State.drawn (s : State) (x y : RegIdx) (n : Nat) : Canvas :=
  drawSprite s.fb ((s.reg x).toNat % Config.screenWidth) ((s.reg y).toNat % Config.screenHeight) (s.dataBytes n)

/-- `Dxyn` DRW Vx,Vy,n (R182 to R186): the address check comes before any change. -/
def execDrw (x y : RegIdx) (n : Fin 16) (s : State) : Host.Outcome State Fault Refusal :=
  if s.dataInRange n.val then
    .next ((s.setFb (s.drawn x y n.val).fb).setReg Config.flagReg (flagByte (s.drawn x y n.val).hit))
  else .next (s.raiseInHandler .addressOutOfRange)

end Sys2Proof.Machine
end

