-- ==== Sys2Proof/Machine/IndexMemory.lean ====
section
/-! DEFINITION. Index-register, BCD and memory transfer instructions (43_index_memory.md). -/

namespace Sys2Proof.Machine

/-- `Annn` LD I,nnn (R161). -/
def execLdI (nnn : Imm12) (s : State) : Host.Outcome State Fault Refusal := .next (s.setI (nnn.zeroExtend 16))

/-- `Fx1E` ADD I,Vx (R162): 16-bit wrap, VF not written. -/
def execAddI (x : RegIdx) (s : State) : Host.Outcome State Fault Refusal :=
  .next (s.setI (s.I + (s.reg x).zeroExtend 16))

/-- `Fx29` LD F,Vx (R163). -/
def execLdF (x : RegIdx) (s : State) : Host.Outcome State Fault Refusal := .next (s.setI (glyphAddr (s.reg x)))

/-- `Fx33` LD B,Vx (R165; the address check is R164). -/
def execLdB (x : RegIdx) (s : State) : Host.Outcome State Fault Refusal :=
  if s.dataInRange 3 then .next (s.storeData (bcdDigits (s.reg x))) else .next (s.raiseInHandler .addressOutOfRange)

/-- `Fx55` LD [I],Vx (R166, R168): `V[0]` to `V[x]` inclusive; `I` unchanged. -/
def execStoreRegs (x : RegIdx) (s : State) : Host.Outcome State Fault Refusal :=
  if s.dataInRange (x.val + 1) then .next (s.storeData (s.regsUpTo x))
  else .next (s.raiseInHandler .addressOutOfRange)

/-- `Fx65` LD Vx,[I] (R167, R168): `V[0]` to `V[x]` inclusive; `I` unchanged. -/
def execLoadRegs (x : RegIdx) (s : State) : Host.Outcome State Fault Refusal :=
  if s.dataInRange (x.val + 1) then .next (s.setRegsFrom 0 (s.dataBytes (x.val + 1)))
  else .next (s.raiseInHandler .addressOutOfRange)

end Sys2Proof.Machine
end

