-- ==== Sys2Proof/Machine/KeypadTimers.lean ====
section
/-! DEFINITION. The keypad and timer instructions (45_keypad_timers.md); none can fault (R190). -/

namespace Sys2Proof.Machine

/-- `Ex9E` SKP Vx (R191). -/
def execSkp (x : RegIdx) (s : State) : Host.Outcome State Fault Refusal := .next (s.skipIf (s.keyOf x))

/-- `ExA1` SKNP Vx (R192). -/
def execSknp (x : RegIdx) (s : State) : Host.Outcome State Fault Refusal := .next (s.skipIf (!s.keyOf x))

/-- `Fx07` LD Vx,DT (R193). -/
def execLdVxDT (x : RegIdx) (s : State) : Host.Outcome State Fault Refusal := .next (s.setReg x s.DT)

/-- `Fx15` LD DT,Vx (R194). -/
def execLdDTVx (x : RegIdx) (s : State) : Host.Outcome State Fault Refusal := .next (s.setDT (s.reg x))

/-- `Fx18` LD ST,Vx (R195). -/
def execLdSTVx (x : RegIdx) (s : State) : Host.Outcome State Fault Refusal := .next (s.setST (s.reg x))

/-- What `Fx0A` does with the least pressed key, or with none: `pc - 2` re-executes it (R196). -/
def State.afterKeyScan (s : State) (x : RegIdx) : Option (Fin 16) → State
  | some k => s.setReg x (BitVec.ofNat 8 k.val)
  | none => s.setPc (s.pc - 2)

/-- `Fx0A` LD Vx,K (R196, R197). -/
def execLdVxK (x : RegIdx) (s : State) : Host.Outcome State Fault Refusal := .next (s.afterKeyScan x s.firstKey)

end Sys2Proof.Machine
end

