-- ==== Sys2Proof/Machine/Tick.lean ====
section
/-! DEFINITION. The tick (40_tick_fetch_dispatch.md R90 to R102): keypad latch, timers, fetch, decode, dispatch. -/

namespace Sys2Proof.Machine

/-- "`if T > 0 then T <- T - 1`": a timer at 0 stays at 0 (R92; 10_state.md R29). -/
def countDown (t : Byte) : Byte := if t = 0 then 0 else t - 1

/-- Step 1: all 16 bits of the keypad latch are replaced by the tick's snapshot (R91). -/
def State.latchKeys (s : State) (k : Keypad) : State := s.setKeys k

/-- Steps 2 and 3: each timer above 0 counts down by 1 (R92). -/
def State.decrementTimers (s : State) : State := (s.setDT (countDown s.DT)).setST (countDown s.ST)

/-- What the ports show during a tick: the random byte is presented, and from now on the core is running (R229, R247;
the model's own record). -/
def State.presentPorts (s : State) (r : Byte) : State := s.setHost { s.host with rnd := r, boot := .running }

/-- Steps 1 to 3 of a tick, before the fetch (R91, R92). -/
def State.beginTick (s : State) (inp : TickInput) : State :=
  ((s.presentPorts inp.rnd).latchKeys inp.keys).decrementTimers

/-- The fetch range check: "`PC` and `PC+1` must be in range" (R94). -/
def State.fetchInRange (s : State) : Bool := decide (s.pc.toNat + 1 < Config.memorySize)

/-- The two bytes at `pc` and `pc + 1`, as they are in memory now (R95; 20_memory.md R65). -/
def State.fetchBytes (s : State) : List Byte := s.mem.readBytes s.pc.toNat 2

/-- The big-endian word at `pc` (R95). -/
def State.fetchWord (s : State) : Word := wordOfBytes (s.mem.read s.pc.toNat) (s.mem.read (s.pc.toNat + 1))

/-- Steps 4 and 5: the opcode latch takes the word, and `pc` advances by 2 before dispatch (R95, R96). -/
def State.fetched (s : State) : State := (s.setOpcode s.fetchWord).setPc (s.pc + 2)

/-- Step 6: decode the opcode latch and run exactly one of 35 arms; the thirty-fifth raises UnknownOpcode (R97, R98). -/
def State.dispatch (s : State) : Host.Outcome State Fault Refusal :=
  match decode s.opcode with
  | .ok i => exec i s
  | .error _ => .next (s.raiseInHandler .unknownOpcode)

/-- The tick of R99 with its two inputs. A halted core does nothing (R100); an out-of-range `pc` faults at the fetch,
with `opcode` and `pc` unchanged (R94). -/
def tick (inp : TickInput) (s : State) : Host.Outcome State Fault Refusal :=
  if s.fault.isSome then .next s
  else if (s.beginTick inp).fetchInRange then (s.beginTick inp).fetched.dispatch
  else .next ((s.beginTick inp).raise .addressOutOfRange (s.beginTick inp).pc)

/-- The input of the next tick: the first one the host is known to present, else a free one (log entry 3). -/
def State.nextInput (s : State) : TickInput :=
  match s.host.inputs with
  | inp :: _ => inp
  | [] => { keys := Config.keypadInput s.host.drawn, rnd := Config.rndInput s.host.drawn }

/-- The host's side once that input has been presented; a halted core takes no input (R100; log entry 10). -/
def State.takeInput (s : State) : State :=
  if s.fault.isSome then s
  else s.setHost { s.host with inputs := s.host.inputs.tail, drawn := s.host.drawn + 1 }

/-- One word stored where the next fetch reads it: big-endian at `pc`, if both bytes lie in RAM (20_memory.md R55). -/
def State.placeWord (s : State) (w : Word) : State :=
  if s.fetchInRange then s.setMem (s.mem.writeBytes s.pc.toNat [highByte w, lowByte w]) else s

end Sys2Proof.Machine
end

