-- ==== Sys2Proof/Machine/Step.lean ====
section
/-! DEFINITION. One step of the machine: one tick, with the inputs the host presents (40_tick_fetch_dispatch.md R90). -/

namespace Sys2Proof.Machine

/-- One tick of the core (R99). -/
def step (s : State) : Host.Outcome State Fault Refusal := tick s.nextInput s.takeInput

/-- The state with an instruction word stored where the next fetch reads it, and nothing else changed: it stands for a
program loaded from outside (log entry 12). -/
def State.withFetchWord (s : State) (nbits w : Nat) : State := s.placeWord (BitVec.ofNat 16 (w % 2 ^ nbits))

end Sys2Proof.Machine
end

