-- ==== Sys2Proof/Machine/HostPorts.lean ====
section
/-! DEFINITION. The host's operations on the core and the ports it reads between ticks (60_exceptions.md R226 to R231). -/

namespace Sys2Proof.Machine

/-- `load_rom(bytes)` (70_reset_and_hazards.md R246, R247; log entry 8): the image is copied to 0x200 and nothing but
`mem` changes; too long an image is reported on `load_err` with no state of the core mutated, the latch neither set nor
the core halted (60_exceptions.md R215); a load anywhere but between a reset and the first tick, or a second one, has no
transition. -/
def loadRom (bytes : List Byte) (s : State) : Host.Outcome State Fault Refusal :=
  if s.host.boot = .afterReset then
    if bytes.length ≤ Config.maxRom then
      .next ((s.setMem (s.mem.writeBytes Config.romStart bytes)).setHost
        { s.host with boot := .loaded, loadErr := none })
    else .next (s.setHost { s.host with boot := .loaded, loadErr := some .romTooLarge })
  else .refused .loadOutsideBoot

/-- The moves of the host that change the core; there is no other (R231). -/
inductive HostMove where
  | reset
  | loadRom (bytes : List Byte)
  | tick (inp : TickInput)
  deriving DecidableEq, Repr

/-- What a move of the host does (R230, R231). -/
def hostMove (m : HostMove) (s : State) : Host.Outcome State Fault Refusal :=
  match m with
  | .reset => .next (resetCore s)
  | .loadRom bytes => loadRom bytes s
  | .tick inp => tick inp s

/-- The numeric code of a run-time fault (R210). -/
def FaultCause.code : FaultCause → Nat
  | .unknownOpcode => 1
  | .stackUnderflow => 2
  | .stackOverflow => 3
  | .addressOutOfRange => 5

/-- The numeric code of the loader's error, shown on `load_err` only (R210). -/
def LoadError.code : LoadError → Nat
  | .romTooLarge => 4

/-- `sound_on`: "true iff `sound_timer > 0`", on the current `ST` (R228). -/
def soundOn (s : State) : Bool := decide (0 < s.ST.toNat)

/-- `fault_cause`: the code of R210, 0 when the latch is none (R230). -/
def faultCause (s : State) : Nat :=
  match s.fault with
  | some r => r.cause.code
  | none => 0

/-- `load_err`: the code of R210 of what the loader reported, 0 for none (R215, R230). -/
def loadErr (s : State) : Nat :=
  match s.host.loadErr with
  | some e => e.code
  | none => 0

/-- The output ports the host may read between ticks (R227, R228, R230; the six of 92_eei_decisions.md D1). `fault_opcode` and `fault_pc` show the fault
record; while there is none the spec gives them no value and the model gives none (log entry 11). -/
structure Outputs where
  framebuffer : Framebuffer
  soundOn : Bool
  faultCause : Nat
  faultOpcode : Option Word
  faultPc : Option Word
  loadErr : Nat
  deriving DecidableEq, Repr

/-- The output ports as a function of the state (R230). -/
def outputs (s : State) : Outputs :=
  { framebuffer := s.fb
    soundOn := soundOn s
    faultCause := faultCause s
    faultOpcode := s.fault.map FaultRecord.opcode
    faultPc := s.fault.map FaultRecord.pcAtFetch
    loadErr := loadErr s }

end Sys2Proof.Machine
end

