-- ==== Sys2Proof/Safety.lean ====
section
/-! DEFINITION. What a safe run is, and the terms the statements are written in: halted and parked states, the machine's
invariant, and what "unchanged" means for each kind of state. -/

namespace Sys2Proof.Machine

/-- Halted: the fault latch is set (60_exceptions.md R217). A halted state is never a successful end. -/
def State.halted (s : State) : Bool := s.fault.isSome

/-- Parked, the spec's own convention (70_reset_and_hazards.md R250): no fault, and the word at `pc` is `1nnn` with
`nnn = pc`. -/
def State.parked (s : State) : Bool :=
  s.fault.isNone && s.fetchInRange && s.fetchWord == packA 0x1 (s.pc.setWidth 12)

/-- A safe run of `n` ticks: it ends in a state whose fault latch is none; the latch is sticky, so no tick of it faulted. -/
def SafeRun (n : Nat) (s : State) : Prop := ∃ t, core.run n s = .next t ∧ t.halted = false

/-- The pixel at column `x`, row `y` (10_state.md R32). -/
def State.pixel (s : State) (y : Fin 32) (x : Fin 64) : Bool := s.fb[y][x]

/-- The byte of RAM at an address (20_memory.md R50). -/
def State.byte (s : State) (a : Nat) : Byte := s.mem.read a

/-- The invariant of the machine: RAM in its canonical form; `pc` at most 0x10FE and every return address in use at
most 0x1000 (10_state.md R37); and after a fault, `pc` is the fetch address or that plus 2 (60_exceptions.md R218). -/
structure State.Inv (s : State) : Prop where
  memory : s.mem.wf = true
  pcBound : s.pc.toNat ≤ 0x10FE
  returns : ∀ j : Fin 16, j.val < s.SP.val → (s.stack[j]).toNat ≤ 0x1000
  faultPc : ∀ r, s.fault = some r → s.pc = r.pcAtFetch ∨ s.pc = r.pcAtFetch + 2

/-- Every general register but those of `P` holds what it held. -/
def KeepsRegsBut (P : RegIdx → Prop) (s t : State) : Prop := ∀ r, ¬ P r → t.reg r = s.reg r

/-- Every byte of RAM outside the `n` bytes from `a` on reads as before. -/
def KeepsMemoryBut (a n : Nat) (s t : State) : Prop := ∀ b, ¬ (a ≤ b ∧ b < a + n) → t.byte b = s.byte b

/-- Every byte of RAM reads as before. -/
def KeepsMemory (s t : State) : Prop := ∀ b, t.byte b = s.byte b

/-- Every pixel is as before. -/
def KeepsScreen (s t : State) : Prop := ∀ y x, t.pixel y x = s.pixel y x

/-- The stack pointer and every slot of the return stack are as before. -/
def KeepsStack (s t : State) : Prop := t.SP = s.SP ∧ ∀ j : Fin 16, t.stack[j] = s.stack[j]

/-- Both timers are as before. -/
def KeepsTimers (s t : State) : Prop := t.DT = s.DT ∧ t.ST = s.ST

/-- The opcode latch, the keypad latch, and the host's side of the ports are as before: no instruction writes them
(10_state.md R30, R31). -/
def KeepsLatches (s t : State) : Prop := t.opcode = s.opcode ∧ t.key = s.key ∧ t.host = s.host

/-- Everything but general registers, `pc`, `I`, the timers, the return stack, the screen and memory: the latches and
the fault latch. -/
def KeepsControl (s t : State) : Prop := KeepsLatches s t ∧ t.fault = s.fault

/-- Only registers of `P` may differ: the frame of a register-only instruction (42_alu.md R130). -/
def OnlyRegs (P : RegIdx → Prop) (s t : State) : Prop :=
  KeepsRegsBut P s t ∧ t.pc = s.pc ∧ t.I = s.I ∧ KeepsStack s t ∧ KeepsTimers s t ∧ KeepsScreen s t ∧
    KeepsMemory s t ∧ KeepsControl s t

/-- Only `pc` may differ: the frame of a jump or a skip (41_control_flow.md R110). -/
def OnlyPc (s t : State) : Prop :=
  KeepsRegsBut (fun _ => False) s t ∧ t.I = s.I ∧ KeepsStack s t ∧ KeepsTimers s t ∧ KeepsScreen s t ∧
    KeepsMemory s t ∧ KeepsControl s t

/-- Only `pc` and the return stack may differ: the frame of CALL and RET. -/
def OnlyPcStack (s t : State) : Prop :=
  KeepsRegsBut (fun _ => False) s t ∧ t.I = s.I ∧ KeepsTimers s t ∧ KeepsScreen s t ∧ KeepsMemory s t ∧
    KeepsControl s t

/-- Only `I` may differ (43_index_memory.md R160). -/
def OnlyI (s t : State) : Prop :=
  KeepsRegsBut (fun _ => False) s t ∧ t.pc = s.pc ∧ KeepsStack s t ∧ KeepsTimers s t ∧ KeepsScreen s t ∧
    KeepsMemory s t ∧ KeepsControl s t

/-- Only the timers may differ (45_keypad_timers.md R190). -/
def OnlyTimers (s t : State) : Prop :=
  KeepsRegsBut (fun _ => False) s t ∧ t.pc = s.pc ∧ t.I = s.I ∧ KeepsStack s t ∧ KeepsScreen s t ∧
    KeepsMemory s t ∧ KeepsControl s t

/-- Only the `n` bytes from `a` on may differ: the frame of a store (43_index_memory.md R160). -/
def OnlyMemory (a n : Nat) (s t : State) : Prop :=
  KeepsMemoryBut a n s t ∧ KeepsRegsBut (fun _ => False) s t ∧ t.pc = s.pc ∧ t.I = s.I ∧ KeepsStack s t ∧
    KeepsTimers s t ∧ KeepsScreen s t ∧ KeepsControl s t

/-- Only the screen and the registers of `P` may differ: the frame of the display instructions (44_display.md R180). -/
def OnlyScreen (P : RegIdx → Prop) (s t : State) : Prop :=
  KeepsRegsBut P s t ∧ t.pc = s.pc ∧ t.I = s.I ∧ KeepsStack s t ∧ KeepsTimers s t ∧ KeepsMemory s t ∧
    KeepsControl s t

/-- The whole effect of taking a fault: the latch holds the record, and nothing else differs (60_exceptions.md R216). -/
def TakesFault (cause : FaultCause) (pcAtFetch : Word) (s t : State) : Prop :=
  t = { s with fault := some { cause := cause, opcode := s.opcode, pcAtFetch := pcAtFetch } }

end Sys2Proof.Machine
end

