-- ==== Sys2Proof/Certificates/Slice0/Obligations.lean ====
section
/-! DEFINITION. The statements for the provers. Each docstring names the rule of the spec it formalises; where a clause
rests on a decision the spec marks as its own, the docstring says so. -/

open Sys2Proof Sys2Proof.Machine

/-! Encoding. -/

/-- Decoding an encoded instruction gives it back, with every operand at every value (30_encoding.md sections 1 to 3). -/
def Obligations.DecodeOfEncode : Prop := ∀ i : Instr, decode (encode i) = .ok i

/-- Every word has at most one meaning: the word of the instruction a word decodes to is that word, so no bit of it is
dropped, the unused `y` of the shifts included (30_encoding.md sections 2 and 3). -/
def Obligations.EncodeOfDecode : Prop := ∀ (w : Word) (i : Instr), decode w = .ok i → encode i = w

/-- R75: "a word `w` is the instruction iff `w & mask = match`", for each row of the map; the map has 34 rows. -/
def Obligations.DecoderFollowsOpcodeMap : Prop :=
  opcodeMap.length = 34 ∧ (∀ i : Instr, i.row ∈ opcodeMap) ∧
  ∀ r ∈ opcodeMap, ∀ w : Word, r.accepts w = true ↔ ∃ i, decode w = .ok i ∧ i.row = r

/-- 30_encoding.md section 3 (R74): "The 34 patterns are pairwise disjoint". -/
def Obligations.OpcodeRowsAreDisjoint : Prop :=
  ∀ r ∈ opcodeMap, ∀ r' ∈ opcodeMap, ∀ w : Word, r.accepts w = true → r'.accepts w = true → r = r'

/-- 30_encoding.md section 4 (R78, which the spec marks as derived): the unknown words are exactly the six classes of
the table. -/
def Obligations.UnknownWordsAreTheSixClasses : Prop :=
  ∀ w : Word, (∃ e, decode w = .error e) ↔
    (nib3 w = 0x0 ∧ w ≠ 0x00E0 ∧ w ≠ 0x00EE) ∨
    (nib3 w = 0x5 ∧ nib0 w ≠ 0x0) ∨
    (nib3 w = 0x8 ∧ nib0 w ∈ [0x8, 0x9, 0xA, 0xB, 0xC, 0xD, 0xF]) ∨
    (nib3 w = 0x9 ∧ nib0 w ≠ 0x0) ∨
    (nib3 w = 0xE ∧ fieldKK w ∉ [0x9E, 0xA1]) ∨
    (nib3 w = 0xF ∧ fieldKK w ∉ [0x07, 0x0A, 0x15, 0x18, 0x1E, 0x29, 0x33, 0x55, 0x65])

/-- Words written out from the spec's examples decode to the instructions they stand for (30_encoding.md section 3,
41_control_flow.md, 42_alu.md, 43_index_memory.md, 44_display.md, 45_keypad_timers.md). -/
def Obligations.SpecWordsDecode : Prop :=
  decode 0x00EE = .ok .ret ∧ decode 0x1ABC = .ok (.jp 0xABC) ∧ decode 0x3142 = .ok (.seImm 1 0x42) ∧
  decode 0x8F14 = .ok (.addReg 15 1) ∧ decode 0xF21E = .ok (.addI 2) ∧ decode 0xD015 = .ok (.drw 0 1 5) ∧
  decode 0xE19E = .ok (.skp 1) ∧ decode 0xF30A = .ok (.ldVxK 3) ∧ decode 0x0000 = .error (.unknownOpcode 0)

/-- An instruction is two bytes, the byte at the lower address the high byte (30_encoding.md section 1, R70; 20_memory.md
section 2, R55): its bytes decode to it, whatever follows them. -/
def Obligations.InstructionBytesAreBigEndian : Prop :=
  ∀ (i : Instr) (rest : List Byte),
    (encodeBytes i).length = 2 ∧ decodeBytes (encodeBytes i ++ rest) = .ok (i, rest) ∧
    ∀ b0 b1, encodeBytes i = [b0, b1] → (encode i).toNat = 256 * b0.toNat + b1.toNat

/-! Reset and the host. -/

/-- 10_state.md section 9 (R36): the value of every piece of state after reset. The `fault` row is the spec's own. The
font clause names the parameter FONT, whose bytes are log entry 5's. -/
def Obligations.ResetValues : Prop :=
  (∀ r, State.reset.reg r = 0) ∧ State.reset.I = 0 ∧ State.reset.pc = 0x0200 ∧ State.reset.SP = 0 ∧
  (∀ j : Fin 16, State.reset.stack[j] = 0) ∧ State.reset.DT = 0 ∧ State.reset.ST = 0 ∧ State.reset.opcode = 0 ∧
  (∀ k : Fin 16, State.reset.key[k] = false) ∧ (∀ y x, State.reset.pixel y x = false) ∧
  (∀ j, j < 80 → State.reset.byte (0x050 + j) = font.getD j 0) ∧
  (∀ a, ¬ (0x050 ≤ a ∧ a < 0x0A0) → State.reset.byte a = 0) ∧ State.reset.fault = none

/-- 70_reset_and_hazards.md section 1 (R240, R242, the spec's decision D12): reset puts every piece of the core's state
at its reset value from any state, a halted one included; the host's inputs to come are the model's own (log entry 9). -/
def Obligations.ResetFromAnyState : Prop :=
  ∀ s : State, { resetCore s with host := HostSide.reset } = State.reset ∧ (resetCore s).halted = false ∧
    (resetCore s).host.inputs = s.host.inputs

/-- R246: "copy `bytes` into `memory[ROM_START .. ROM_START + len]`. Fatal if `len > MEMORY_SIZE - ROM_START`", for a load
in its place in the boot sequence (the spec's decision D13). An image that fits: nothing but `mem` changes, `load_err` shows
none. One that does not (R215, the same decision): `load_err` shows 4, and no state of the core changes, so that it is not
halted. In both cases the model's own record of the boot sequence moves on (log entry 8). -/
def Obligations.LoadRomCopiesImage : Prop :=
  ∀ (bytes : List Byte) (s : State), s.host.boot = .afterReset →
    (bytes.length ≤ 3584 → ∃ t, loadRom bytes s = .next t ∧
      (∀ a, t.byte a = if 0x200 ≤ a ∧ a < 0x200 + bytes.length then bytes.getD (a - 0x200) 0 else s.byte a) ∧
      t = { s with mem := t.mem, host := { s.host with boot := .loaded, loadErr := none } } ∧ (outputs t).loadErr = 0) ∧
    (3584 < bytes.length → ∃ t, loadRom bytes s = .next t ∧ (outputs t).loadErr = 4 ∧ (outputs t).faultCause = faultCause s ∧
      t = { s with host := { s.host with boot := .loaded, loadErr := some .romTooLarge } })

/-- 70_reset_and_hazards.md section 2 (R247, the spec's decision D13): at most one load between a reset and the first
tick after it; anything else has no transition. -/
def Obligations.LoadRomOnlyBeforeFirstTick : Prop :=
  (∀ bytes s, s.host.boot ≠ .afterReset → loadRom bytes s = .refused .loadOutsideBoot) ∧
  (∀ bytes s t, loadRom bytes s = .next t → t.host.boot ≠ .afterReset) ∧
  (∀ inp s t, s.fault = none → tick inp s = .next t → t.host.boot ≠ .afterReset) ∧
  (∀ s, (resetCore s).host.boot = .afterReset)

/-- The invariant holds after reset: RAM in the model's own canonical form (log entry 6); `pc` at most 0x10FE and return
addresses in use at most 0x1000 (10_state.md section 10, R37, marked derived); and, IF there is a fault record, `pc` the
fetch address or that plus 2 (60_exceptions.md section 2, R218, the spec's decision D8). -/
def Obligations.ResetMeetsInvariant : Prop := State.reset.Inv

/-- Every step keeps the invariant: RAM in the model's own canonical form (log entry 6); `pc` at most 0x10FE and return
addresses in use at most 0x1000 (10_state.md section 10, R37, marked derived); after a fault, `pc` the fetch address or that
plus 2 (60_exceptions.md section 2, R218, the spec's decision D8). -/
def Obligations.StepKeepsInvariant : Prop := ∀ s t : State, s.Inv → step s = .next t → t.Inv

/-- Every move of the host keeps the invariant, whatever inputs, image and moment it chooses (60_exceptions.md section 5).
The invariant's clauses are 10_state.md section 10 (R37, marked derived), 60_exceptions.md section 2 (R218, the spec's
decision D8) and the model's own canonical form of RAM (log entry 6). -/
def Obligations.HostMovesKeepInvariant : Prop := ∀ (m : HostMove) (s t : State), s.Inv → hostMove m s = .next t → t.Inv

/-! The tick. -/

/-- When the bytes at `pc` decode to an instruction, a step is that instruction's handler at the state the tick's earlier
steps leave (40_tick_fetch_dispatch.md section 4, R99): keys latched, timers counted down, word latched, `pc` advanced. -/
def Obligations.StepRunsDecodedInstruction : Prop :=
  ∀ (s : State) (i : Instr), s.fault = none → s.pc.toNat + 1 < 4096 →
    decodeBytes [s.byte s.pc.toNat, s.byte (s.pc.toNat + 1)] = .ok (i, []) →
    step s = exec i { s with
      key := s.nextInput.keys
      DT := if s.DT = 0 then 0 else s.DT - 1
      ST := if s.ST = 0 then 0 else s.ST - 1
      opcode := wordOfBytes (s.byte s.pc.toNat) (s.byte (s.pc.toNat + 1))
      pc := s.pc + 2
      host := { s.host with
        inputs := s.host.inputs.tail
        drawn := s.host.drawn + 1
        rnd := s.nextInput.rnd
        boot := .running } }

/-- R91: "All 16 bits are replaced on every tick; nothing of the previous latch value survives". -/
def Obligations.TickLatchesSnapshot : Prop :=
  ∀ (inp : TickInput) (s : State), s.fault = none →
    ∃ t, tick inp s = .next t ∧ ∀ k : Fin 16, t.key[k] = inp.keys[k]

/-- R92: each timer above 0 counts down by 1 on every tick, a waiting and a faulting one included, before the handler
runs: `Fx07` reads the decremented value, `Fx15` and `Fx18` overwrite it. -/
def Obligations.TimersCountDownEachTick : Prop :=
  ∀ (inp : TickInput) (s : State), s.fault = none → ∃ t, tick inp s = .next t ∧
    ((∀ x, ¬ (s.fetchInRange = true ∧ decode s.fetchWord = .ok (.ldDTVx x))) → t.DT.toNat = s.DT.toNat - 1) ∧
    ((∀ x, ¬ (s.fetchInRange = true ∧ decode s.fetchWord = .ok (.ldSTVx x))) → t.ST.toNat = s.ST.toNat - 1) ∧
    (∀ x, s.fetchInRange = true → decode s.fetchWord = .ok (.ldDTVx x) → t.DT = s.reg x) ∧
    (∀ x, s.fetchInRange = true → decode s.fetchWord = .ok (.ldSTVx x) → t.ST = s.reg x) ∧
    (∀ x, s.fetchInRange = true → decode s.fetchWord = .ok (.ldVxDT x) → (t.reg x).toNat = s.DT.toNat - 1)

/-- 40_tick_fetch_dispatch.md section 2 (R94, the spec's decision D18): a `pc` of 0xFFF or more faults at the fetch; the
record (cause, stale opcode latch, `pc`) is 60_exceptions.md section 2 (R216, the spec's decision D7);
`opcode` and `pc` keep their values, steps 1 to 3 of the tick stay, no handler runs. -/
def Obligations.FetchOutOfRangeFaults : Prop :=
  ∀ (inp : TickInput) (s : State), s.fault = none → 0xFFF ≤ s.pc.toNat → ∃ t, tick inp s = .next t ∧
    t.fault = some { cause := .addressOutOfRange, opcode := s.opcode, pcAtFetch := s.pc } ∧
    t.pc = s.pc ∧ t.opcode = s.opcode ∧ t.key = inp.keys ∧
    t.DT.toNat = s.DT.toNat - 1 ∧ t.ST.toNat = s.ST.toNat - 1 ∧
    KeepsRegsBut (fun _ => False) s t ∧ t.I = s.I ∧ KeepsStack s t ∧ KeepsScreen s t ∧ KeepsMemory s t

/-- R211: a fetched word that matches none of the 34 patterns: the latch records the word and the address it was fetched
from; `pc` has already advanced past it. Nothing but the tick's earlier steps changes anything else. -/
def Obligations.UnknownWordRaisesFault : Prop :=
  ∀ (inp : TickInput) (s : State), s.fault = none → s.pc.toNat + 1 < 4096 →
    (∀ r ∈ opcodeMap, r.accepts (wordOfBytes (s.byte s.pc.toNat) (s.byte (s.pc.toNat + 1))) = false) →
    ∃ t, tick inp s = .next t ∧
      t.fault = some { cause := .unknownOpcode
                       opcode := wordOfBytes (s.byte s.pc.toNat) (s.byte (s.pc.toNat + 1))
                       pcAtFetch := s.pc } ∧
      t.pc = s.pc + 2 ∧ t.opcode = wordOfBytes (s.byte s.pc.toNat) (s.byte (s.pc.toNat + 1)) ∧
      KeepsRegsBut (fun _ => False) s t ∧ t.I = s.I ∧ KeepsStack s t ∧ KeepsScreen s t ∧ KeepsMemory s t

/-- 40_tick_fetch_dispatch.md section 4 (R100, the spec's decision D5): a tick while the fault latch is set changes
nothing, whatever its inputs. -/
def Obligations.HaltedTickDoesNothing : Prop :=
  ∀ (inp : TickInput) (s : State), s.fault ≠ none → tick inp s = .next s ∧ step s = .next s

/-- 70_reset_and_hazards.md section 5 (R262, marked derived): the core always completes a tick. That a tick that faults,
and a tick of a halted core, answer a next state is log entry 1 (DESIGN CHOICE) with the spec's decision D5
(40_tick_fetch_dispatch.md section 4): completing a step does not mean that it succeeded. -/
def Obligations.StepAlwaysCompletes : Prop := ∀ s : State, ∃ t, step s = .next t

/-- 60_exceptions.md section 2 (R217, the spec's decision D5): the latch is sticky, so a run that ends with no fault had
none at any earlier tick. -/
def Obligations.SafeRunNeverFaulted : Prop :=
  ∀ (n k : Nat) (s : State), SafeRun n s → k ≤ n → ∃ t, core.run k s = .next t ∧ t.fault = none

/-- 60_exceptions.md section 2 (R216, R218, the spec's decisions D7 and D8): a tick that faults records where it began and
the opcode latch, and has changed no register, no slot, no pixel and no byte; `pc` is the fetch address for a fetch fault
and that plus 2 for every other. -/
def Obligations.FaultingTickIsPrecise : Prop :=
  ∀ (s t : State) (r : FaultRecord), s.fault = none → step s = .next t → t.fault = some r →
    r.pcAtFetch = s.pc ∧ r.opcode = t.opcode ∧
    ((r.cause = .addressOutOfRange ∧ 0xFFF ≤ s.pc.toNat ∧ t.pc = s.pc ∧ t.opcode = s.opcode) ∨
     (s.pc.toNat < 0xFFF ∧ t.pc = s.pc + 2 ∧ t.opcode = s.fetchWord)) ∧
    KeepsRegsBut (fun _ => False) s t ∧ t.I = s.I ∧ KeepsStack s t ∧ KeepsScreen s t ∧ KeepsMemory s t

/-- 20_memory.md section 4 (R65, marked derived): bytes stored where the next fetch reads are the word it fetches. -/
def Obligations.StoredBytesAreFetchedNext : Prop :=
  ∀ (s : State) (x k k' : RegIdx), k'.val = k.val + 1 → k' ≤ x → s.I.toNat + x.val < 4096 →
    s.I.toNat + k.val = s.pc.toNat →
    ∃ t, exec (.storeRegs x) s = .next t ∧ t.fetchInRange = true ∧ t.fetchWord = wordOfBytes (s.reg k) (s.reg k')

/-! Control flow. -/

/-- R114, R115: `3xkk` skips iff `V[x] = kk`, `4xkk` iff not; nothing but `pc` changes. -/
def Obligations.SkipsOnImmediate : Prop :=
  ∀ (s : State) (x : RegIdx) (kk : Byte),
    decode (packXK 0x3 x kk) = .ok (.seImm x kk) ∧ decode (packXK 0x4 x kk) = .ok (.sneImm x kk) ∧
    (∃ t, exec (.seImm x kk) s = .next t ∧ t.pc = (if s.reg x = kk then s.pc + 2 else s.pc) ∧ OnlyPc s t) ∧
    (∃ t, exec (.sneImm x kk) s = .next t ∧ t.pc = (if s.reg x ≠ kk then s.pc + 2 else s.pc) ∧ OnlyPc s t)

/-- R116, R117: `5xy0` skips iff `V[x] = V[y]`, `9xy0` iff not; nothing but `pc` changes; `5xyN` and `9xyN` with `N ≠ 0`
are unknown. -/
def Obligations.SkipsOnRegisters : Prop :=
  ∀ (s : State) (x y : RegIdx),
    decode (packXYN 0x5 x y 0x0) = .ok (.seReg x y) ∧ decode (packXYN 0x9 x y 0x0) = .ok (.sneReg x y) ∧
    (∀ n : BitVec 4, n ≠ 0 → decode (packXYN 0x5 x y n) = .error (.unknownOpcode (packXYN 0x5 x y n)) ∧
      decode (packXYN 0x9 x y n) = .error (.unknownOpcode (packXYN 0x9 x y n))) ∧
    (∃ t, exec (.seReg x y) s = .next t ∧ t.pc = (if s.reg x = s.reg y then s.pc + 2 else s.pc) ∧ OnlyPc s t) ∧
    (∃ t, exec (.sneReg x y) s = .next t ∧ t.pc = (if s.reg x ≠ s.reg y then s.pc + 2 else s.pc) ∧ OnlyPc s t)

/-- R191, R192: `Ex9E` skips iff the key selected by the low nibble of `V[x]` is down, `ExA1` iff not. -/
def Obligations.SkipsOnKeys : Prop :=
  ∀ (s : State) (x : RegIdx) (k : Fin 16), k.val = (s.reg x).toNat % 16 →
    decode (packXK 0xE x 0x9E) = .ok (.skp x) ∧ decode (packXK 0xE x 0xA1) = .ok (.sknp x) ∧
    (∃ t, exec (.skp x) s = .next t ∧ t.pc = (if s.key[k] = true then s.pc + 2 else s.pc) ∧ OnlyPc s t) ∧
    (∃ t, exec (.sknp x) s = .next t ∧ t.pc = (if s.key[k] = false then s.pc + 2 else s.pc) ∧ OnlyPc s t)

/-- R112, R118: `1nnn` sets `pc` to `nnn`; `Bnnn` to `V[0] + nnn`, which is never wrapped or reduced to 12 bits; a target
above 0xFFE is one the next fetch cannot read, so that tick faults there (FetchOutOfRangeFaults). -/
def Obligations.JumpsSetPc : Prop :=
  ∀ (s : State) (nnn : Imm12),
    decode (packA 0x1 nnn) = .ok (.jp nnn) ∧ decode (packA 0xB nnn) = .ok (.jpV0 nnn) ∧
    (∃ t, exec (.jp nnn) s = .next t ∧ t.pc.toNat = nnn.toNat ∧
      (t.fetchInRange = true ↔ nnn.toNat ≤ 0xFFE) ∧ OnlyPc s t) ∧
    (∃ t, exec (.jpV0 nnn) s = .next t ∧ t.pc.toNat = (s.reg 0).toNat + nnn.toNat ∧
      (t.fetchInRange = true ↔ (s.reg 0).toNat + nnn.toNat ≤ 0xFFE) ∧ OnlyPc s t)

/-- 41_control_flow.md, `2nnn` (R113): the return address goes to the next free slot, SP rises, `pc` is `nnn`; with SP = 16
it raises StackOverflow before any change (fault entry is the spec's decision D7, 60_exceptions.md section 2; `pc - 2`
is log entry 2). -/
def Obligations.CallPushesReturnAddress : Prop :=
  ∀ (s : State) (nnn : Imm12),
    (s.SP.val < 16 → ∃ t, exec (.call nnn) s = .next t ∧ t.pc.toNat = nnn.toNat ∧ t.SP.val = s.SP.val + 1 ∧
      (∀ j : Fin 16, t.stack[j] = if j.val = s.SP.val then s.pc else s.stack[j]) ∧ OnlyPcStack s t) ∧
    (s.SP.val = 16 → ∃ t, exec (.call nnn) s = .next t ∧ TakesFault .stackOverflow (s.pc - 2) s t)

/-- 41_control_flow.md, `00EE` (R111): SP falls and the newest slot goes to `pc`; every slot keeps its value; with SP = 0
it raises StackUnderflow before any change (fault entry is the spec's decision D7, 60_exceptions.md section 2; `pc - 2`
is log entry 2). -/
def Obligations.RetPopsReturnAddress : Prop :=
  ∀ s : State,
    (∀ j : Fin 16, s.SP.val = j.val + 1 → ∃ t, exec .ret s = .next t ∧ t.SP.val = j.val ∧ t.pc = s.stack[j] ∧
      (∀ k : Fin 16, t.stack[k] = s.stack[k]) ∧ OnlyPcStack s t) ∧
    (s.SP.val = 0 → ∃ t, exec .ret s = .next t ∧ TakesFault .stackUnderflow (s.pc - 2) s t)

/-- 41_control_flow.md (R119): a CALL, then a RET at any state that has its return stack, restores `pc` to the address
after the CALL and SP to its prior value. -/
def Obligations.CallThenRetReturns : Prop :=
  ∀ (s : State) (nnn : Imm12), s.SP.val < 16 → ∃ t, exec (.call nnn) s = .next t ∧
    ∀ u : State, u.SP = t.SP → u.stack = t.stack → ∃ v, exec .ret u = .next v ∧ v.pc = s.pc ∧ v.SP = s.SP

/-- 10_state.md section 4 (R27, R28): only `2nnn` writes a slot, only `2nnn` and `00EE` move SP. -/
def Obligations.OnlyCallAndRetUseTheStack : Prop :=
  ∀ (i : Instr) (s t : State), exec i s = .next t →
    (t.stack ≠ s.stack → ∃ nnn, i = .call nnn) ∧ (t.SP ≠ s.SP → i = .ret ∨ ∃ nnn, i = .call nnn)

/-! Register load, arithmetic, logic, shift, random. -/

/-- R132, R134: `6xkk` loads `kk`, `8xy0` copies `V[y]`; no other register and nothing else changes. -/
def Obligations.LoadsAndCopies : Prop :=
  ∀ (s : State) (x y : RegIdx) (kk : Byte),
    decode (packXK 0x6 x kk) = .ok (.ldImm x kk) ∧ decode (packXYN 0x8 x y 0x0) = .ok (.ldReg x y) ∧
    (∃ t, exec (.ldImm x kk) s = .next t ∧ t.reg x = kk ∧ OnlyRegs (· = x) s t) ∧
    (∃ t, exec (.ldReg x y) s = .next t ∧ t.reg x = s.reg y ∧ OnlyRegs (· = x) s t)

/-- R133: `V[x] <- (V[x] + kk) mod 256`; the carry is discarded, VF is written only when it is `V[x]`. -/
def Obligations.AddImmediateWraps : Prop :=
  ∀ (s : State) (x : RegIdx) (kk : Byte), decode (packXK 0x7 x kk) = .ok (.addImm x kk) ∧
    ∃ t, exec (.addImm x kk) s = .next t ∧ (t.reg x).toNat = ((s.reg x).toNat + kk.toNat) % 256 ∧
      OnlyRegs (· = x) s t

/-- R135, R136, R137: or, and, exclusive or of `V[x]` and `V[y]`, bit by bit; VF is not written as a flag. -/
def Obligations.LogicOperations : Prop :=
  ∀ (s : State) (x y : RegIdx),
    decode (packXYN 0x8 x y 0x1) = .ok (.orReg x y) ∧ decode (packXYN 0x8 x y 0x2) = .ok (.andReg x y) ∧
    decode (packXYN 0x8 x y 0x3) = .ok (.xorReg x y) ∧
    (∃ t, exec (.orReg x y) s = .next t ∧ OnlyRegs (· = x) s t ∧
      ∀ k, (t.reg x).getLsbD k = ((s.reg x).getLsbD k || (s.reg y).getLsbD k)) ∧
    (∃ t, exec (.andReg x y) s = .next t ∧ OnlyRegs (· = x) s t ∧
      ∀ k, (t.reg x).getLsbD k = ((s.reg x).getLsbD k && (s.reg y).getLsbD k)) ∧
    (∃ t, exec (.xorReg x y) s = .next t ∧ OnlyRegs (· = x) s t ∧
      ∀ k, (t.reg x).getLsbD k = Bool.xor ((s.reg x).getLsbD k) ((s.reg y).getLsbD k))

/-- R138, R131: the sum modulo 256 to `V[x]`, then 1 to VF if the sum exceeds 255, else 0; for `x = 0xF` the flag is what
remains. -/
def Obligations.AddWithCarry : Prop :=
  ∀ (s : State) (x y : RegIdx), decode (packXYN 0x8 x y 0x4) = .ok (.addReg x y) ∧
    ∃ t, exec (.addReg x y) s = .next t ∧
      (x ≠ 15 → (t.reg x).toNat = ((s.reg x).toNat + (s.reg y).toNat) % 256) ∧
      t.reg 15 = (if (s.reg x).toNat + (s.reg y).toNat > 255 then 1 else 0) ∧
      OnlyRegs (fun r => r = x ∨ r = 15) s t

/-- R139, R142, R140, R131: the difference modulo 256 to `V[x]`, then 1 to VF iff the minuend is strictly greater; at
equality the result and the flag are 0. -/
def Obligations.SubtractWithNotBorrow : Prop :=
  ∀ (s : State) (x y : RegIdx),
    decode (packXYN 0x8 x y 0x5) = .ok (.subReg x y) ∧ decode (packXYN 0x8 x y 0x7) = .ok (.subnReg x y) ∧
    (∃ t, exec (.subReg x y) s = .next t ∧
      (x ≠ 15 → (t.reg x).toNat = ((s.reg x).toNat + 256 - (s.reg y).toNat) % 256) ∧
      t.reg 15 = (if (s.reg x).toNat > (s.reg y).toNat then 1 else 0) ∧ OnlyRegs (fun r => r = x ∨ r = 15) s t) ∧
    (∃ t, exec (.subnReg x y) s = .next t ∧
      (x ≠ 15 → (t.reg x).toNat = ((s.reg y).toNat + 256 - (s.reg x).toNat) % 256) ∧
      t.reg 15 = (if (s.reg y).toNat > (s.reg x).toNat then 1 else 0) ∧ OnlyRegs (fun r => r = x ∨ r = 15) s t)

/-- R141, R143, R144, R131: `8xy6` and `8xyE` shift `V[x]` in place by 1, whatever `y` is; VF is the bit shifted out. -/
def Obligations.ShiftsByOne : Prop :=
  ∀ (s : State) (x y : RegIdx),
    decode (packXYN 0x8 x y 0x6) = .ok (.shr x y) ∧ decode (packXYN 0x8 x y 0xE) = .ok (.shl x y) ∧
    (∃ t, exec (.shr x y) s = .next t ∧ (x ≠ 15 → (t.reg x).toNat = (s.reg x).toNat / 2) ∧
      (t.reg 15).toNat = (s.reg x).toNat % 2 ∧ OnlyRegs (fun r => r = x ∨ r = 15) s t) ∧
    (∃ t, exec (.shl x y) s = .next t ∧ (x ≠ 15 → (t.reg x).toNat = 2 * (s.reg x).toNat % 256) ∧
      (t.reg 15).toNat = (s.reg x).toNat / 128 ∧ OnlyRegs (fun r => r = x ∨ r = 15) s t)

/-- 42_alu.md, `Cxkk` (R146, with the spec's decision D11 that `rnd` is a free input): `V[x] <- rnd & kk`, for every byte
the random port may show in this tick. -/
def Obligations.RandomByteIsMasked : Prop :=
  ∀ (s : State) (x : RegIdx) (kk : Byte), ∃ t, exec (.rnd x kk) s = .next t ∧
    (∀ k, (t.reg x).getLsbD k = (s.host.rnd.getLsbD k && kk.getLsbD k)) ∧ OnlyRegs (· = x) s t

/-- 60_exceptions.md section 4 (R229, the spec's decision D11): the random byte is consumed only by `Cxkk`; the outcome of
every other instruction does not depend on it. -/
def Obligations.OnlyRndReadsTheRandomByte : Prop :=
  ∀ (i : Instr) (s t : State) (r : Byte), (∀ x kk, i ≠ .rnd x kk) → exec i s = .next t →
    exec i { s with host := { s.host with rnd := r } } = .next { t with host := { t.host with rnd := r } }

/-- 10_state.md section 6 (R31): only `Ex9E`, `ExA1` and `Fx0A` read the keypad latch; the outcome of every other
instruction does not depend on it. -/
def Obligations.OnlyKeyInstructionsReadTheKeypad : Prop :=
  ∀ (i : Instr) (s t : State) (k : Keypad), (∀ x, i ≠ .skp x ∧ i ≠ .sknp x ∧ i ≠ .ldVxK x) → exec i s = .next t →
    exec i { s with key := k } = .next { t with key := k }

/-- 10_state.md section 1 (R21, R22): VF changes only under the six flag producers, or when it is named as the
destination of an instruction that writes `V[x]`, or is the last register of `Fx65`. -/
def Obligations.OnlyTheseInstructionsWriteVF : Prop :=
  ∀ (i : Instr) (s t : State), exec i s = .next t → t.reg 15 ≠ s.reg 15 →
    (∃ x y, i = .addReg x y ∨ i = .subReg x y ∨ i = .shr x y ∨ i = .subnReg x y ∨ i = .shl x y) ∨
    (∃ x y n, i = .drw x y n) ∨
    (∃ kk, i = .ldImm 15 kk ∨ i = .addImm 15 kk ∨ i = .rnd 15 kk) ∨
    (∃ y, i = .ldReg 15 y ∨ i = .orReg 15 y ∨ i = .andReg 15 y ∨ i = .xorReg 15 y) ∨
    i = .ldVxDT 15 ∨ i = .ldVxK 15 ∨ i = .loadRegs 15

/-! Index register and memory. -/

/-- R161, R162, R163: `Annn` loads `nnn`; `Fx1E` adds `V[x]` modulo 65536, VF not written; `Fx29` gives
`0x050 + 5 * (V[x] & 0xF)`. Nothing but `I` changes. -/
def Obligations.IndexRegisterWrites : Prop :=
  ∀ (s : State) (x : RegIdx) (nnn : Imm12),
    decode (packA 0xA nnn) = .ok (.ldI nnn) ∧ decode (packXK 0xF x 0x1E) = .ok (.addI x) ∧
    decode (packXK 0xF x 0x29) = .ok (.ldF x) ∧
    (∃ t, exec (.ldI nnn) s = .next t ∧ t.I.toNat = nnn.toNat ∧ OnlyI s t) ∧
    (∃ t, exec (.addI x) s = .next t ∧ t.I.toNat = (s.I.toNat + (s.reg x).toNat) % 65536 ∧ OnlyI s t) ∧
    (∃ t, exec (.ldF x) s = .next t ∧ t.I.toNat = 0x050 + 5 * ((s.reg x).toNat % 16) ∧ OnlyI s t)

/-- 43_index_memory.md, `Fx33` (R165): the hundreds, tens and ones digits at `I`, `I + 1`, `I + 2`, from which `V[x]` is
recovered; nothing else changes. The address check is the spec's decision (R164). -/
def Obligations.BcdStoresDigits : Prop :=
  ∀ (s : State) (x : RegIdx), s.I.toNat + 2 < 4096 → ∃ t, exec (.ldB x) s = .next t ∧
    (t.byte s.I.toNat).toNat = (s.reg x).toNat / 100 ∧
    (t.byte (s.I.toNat + 1)).toNat = (s.reg x).toNat / 10 % 10 ∧
    (t.byte (s.I.toNat + 2)).toNat = (s.reg x).toNat % 10 ∧
    100 * (t.byte s.I.toNat).toNat + 10 * (t.byte (s.I.toNat + 1)).toNat + (t.byte (s.I.toNat + 2)).toNat =
      (s.reg x).toNat ∧
    OnlyMemory s.I.toNat 3 s t

/-- 43_index_memory.md, `Fx55` (R166, R168): `V[0]` to `V[x]` inclusive at `I` to `I + x`; `I` and everything else
unchanged. The address check is the spec's decision (R164). -/
def Obligations.StoreRegistersInMemory : Prop :=
  ∀ (s : State) (x : RegIdx), s.I.toNat + x.val < 4096 → ∃ t, exec (.storeRegs x) s = .next t ∧
    (∀ r : RegIdx, r ≤ x → t.byte (s.I.toNat + r.val) = s.reg r) ∧ OnlyMemory s.I.toNat (x.val + 1) s t

/-- 43_index_memory.md, `Fx65` (R167, R168): `V[0]` to `V[x]` inclusive from `I` to `I + x`; registers above `x`, `I` and
everything else unchanged. The address check is the spec's decision (R164). -/
def Obligations.LoadRegistersFromMemory : Prop :=
  ∀ (s : State) (x : RegIdx), s.I.toNat + x.val < 4096 → ∃ t, exec (.loadRegs x) s = .next t ∧
    (∀ r : RegIdx, r ≤ x → t.reg r = s.byte (s.I.toNat + r.val)) ∧ OnlyRegs (· ≤ x) s t

/-- 43_index_memory.md, `Fx33` (R165): "`Fx33` followed by `Fx65` with `x=2` into `V0,V1,V2` recovers the
hundreds/tens/ones digits of the original `Vx`", whatever the tick between them does to `pc`, timers and latches. -/
def Obligations.BcdThenLoadRecoversDigits : Prop :=
  ∀ (s : State) (x : RegIdx), s.I.toNat + 2 < 4096 → ∃ t, exec (.ldB x) s = .next t ∧
    ∀ u : State, u.mem = t.mem → u.I = t.I → ∃ v, exec (.loadRegs 2) u = .next v ∧
      (v.reg 0).toNat = (s.reg x).toNat / 100 ∧ (v.reg 1).toNat = (s.reg x).toNat / 10 % 10 ∧
      (v.reg 2).toNat = (s.reg x).toNat % 10

/-- 43_index_memory.md (R166, R167, R168): `Fx65` after `Fx55` with the same `x` and `I` gives back every register
`V[0]` to `V[x]`, whatever they held in between. -/
def Obligations.StoreThenLoadRestoresRegisters : Prop :=
  ∀ (s : State) (x : RegIdx), s.I.toNat + x.val < 4096 → ∃ t, exec (.storeRegs x) s = .next t ∧
    ∀ u : State, u.mem = t.mem → u.I = s.I → ∃ v, exec (.loadRegs x) u = .next v ∧
      ∀ r : RegIdx, r ≤ x → v.reg r = s.reg r

/-- 20_memory.md section 1 (R51, marked derived) and section 3: a byte of RAM changes only under `Fx33`, at `I` to `I + 2`,
or `Fx55`, at `I` to `I + x`, and always inside RAM. -/
def Obligations.OnlyStoresWriteMemory : Prop :=
  ∀ (i : Instr) (s t : State) (a : Nat), exec i s = .next t → t.byte a ≠ s.byte a →
    a < 4096 ∧ s.I.toNat ≤ a ∧
    ((∃ x, i = .ldB x ∧ a ≤ s.I.toNat + 2) ∨ (∃ x : RegIdx, i = .storeRegs x ∧ a ≤ s.I.toNat + x.val))

/-- 10_state.md (R26, R29, R30, R31) and 44_display.md (R180): each of `I`, the timers and the screen has its own writers
among the instructions, and no instruction writes the opcode latch or the keypad latch. -/
def Obligations.EachStateHasItsWriters : Prop :=
  ∀ (i : Instr) (s t : State), exec i s = .next t →
    (t.I ≠ s.I → (∃ nnn, i = .ldI nnn) ∨ (∃ x, i = .addI x) ∨ (∃ x, i = .ldF x)) ∧
    (t.DT ≠ s.DT → ∃ x, i = .ldDTVx x) ∧ (t.ST ≠ s.ST → ∃ x, i = .ldSTVx x) ∧
    (t.fb ≠ s.fb → i = .cls ∨ ∃ x y n, i = .drw x y n) ∧
    t.opcode = s.opcode ∧ t.key = s.key ∧ t.host = s.host

/-- 43_index_memory.md (R164) and 44_display.md (R186), the spec's decisions D8 and D9: an access that would reach 4096
or more raises AddressOutOfRange, and the faulting handler has changed nothing else. The record is 60_exceptions.md section
2 (R216, the spec's decision D7), with `pc - 2` for the fetch address by log entry 2. -/
def Obligations.DataAccessOutOfRangeFaults : Prop :=
  ∀ (s : State) (x y : RegIdx) (n : Fin 16),
    (4096 ≤ s.I.toNat + 2 → ∃ t, exec (.ldB x) s = .next t ∧ TakesFault .addressOutOfRange (s.pc - 2) s t) ∧
    (4096 ≤ s.I.toNat + x.val → (∃ t, exec (.storeRegs x) s = .next t ∧ TakesFault .addressOutOfRange (s.pc - 2) s t) ∧
      ∃ t, exec (.loadRegs x) s = .next t ∧ TakesFault .addressOutOfRange (s.pc - 2) s t) ∧
    (0 < n.val → 4096 ≤ s.I.toNat + (n.val - 1) →
      ∃ t, exec (.drw x y n) s = .next t ∧ TakesFault .addressOutOfRange (s.pc - 2) s t)

/-- 60_exceptions.md sections 1 and 2 (R210, R219): a handler takes a fault only where its one check fails: `00EE` on an
empty stack, `2nnn` on a full one, the four memory instructions out of range (the range checks are the spec's decisions D8
and D9). The record taken is R216 (the spec's decision D7), with `pc - 2` for the fetch address by log entry 2. -/
def Obligations.OnlyTheseHandlersFault : Prop :=
  ∀ (i : Instr) (s t : State), exec i s = .next t → t.fault ≠ s.fault →
    (i = .ret ∧ s.SP.val = 0 ∧ TakesFault .stackUnderflow (s.pc - 2) s t) ∨
    (∃ nnn, i = .call nnn ∧ s.SP.val = 16 ∧ TakesFault .stackOverflow (s.pc - 2) s t) ∨
    ((∃ x, i = .ldB x ∧ 4096 ≤ s.I.toNat + 2 ∨
      (i = .storeRegs x ∨ i = .loadRegs x) ∧ 4096 ≤ s.I.toNat + x.val ∨
      ∃ y n, i = .drw x y n ∧ 0 < n.val ∧ 4096 ≤ s.I.toNat + (n.val - 1)) ∧
     TakesFault .addressOutOfRange (s.pc - 2) s t)

/-! Display. -/

/-- R181: every pixel is 0; VF and everything else unchanged. -/
def Obligations.ClsClearsTheScreen : Prop :=
  ∀ s : State, decode 0x00E0 = .ok .cls ∧
    ∃ t, exec .cls s = .next t ∧ (∀ y x, t.pixel y x = false) ∧ OnlyScreen (fun _ => False) s t

/-- 44_display.md (R182 to R185): with the sprite's bytes in range, each pixel `((sy + row) mod 32, (sx + col) mod 64)` ends
as its old value exclusive-or the sprite bit (bit 7 leftmost), every other pixel as it was; VF is 1 iff some sprite bit
that is 1 met a pixel that was 1, else 0, `n = 0` included. The coordinates are the registers' values before VF is
written. The address check is the spec's decision (R186). -/
def Obligations.DrwDrawsTheSprite : Prop :=
  ∀ (s : State) (x y : RegIdx) (n : Fin 16), (n.val = 0 ∨ s.I.toNat + (n.val - 1) < 4096) →
    ∃ t, exec (.drw x y n) s = .next t ∧
      (∀ row col, row < n.val → col < 8 →
        t.pixel (wrapRow ((s.reg y).toNat + row)) (wrapCol ((s.reg x).toNat + col)) =
          Bool.xor (s.pixel (wrapRow ((s.reg y).toNat + row)) (wrapCol ((s.reg x).toNat + col)))
            ((s.byte (s.I.toNat + row)).getLsbD (7 - col))) ∧
      (∀ py px, (∀ row col, row < n.val → col < 8 →
          ¬ (py = wrapRow ((s.reg y).toNat + row) ∧ px = wrapCol ((s.reg x).toNat + col))) →
        t.pixel py px = s.pixel py px) ∧
      (t.reg 15 = 1 ↔ ∃ row col, row < n.val ∧ col < 8 ∧ (s.byte (s.I.toNat + row)).getLsbD (7 - col) = true ∧
        s.pixel (wrapRow ((s.reg y).toNat + row)) (wrapCol ((s.reg x).toNat + col)) = true) ∧
      (t.reg 15 = 0 ∨ t.reg 15 = 1) ∧ OnlyScreen (· = 15) s t

/-- 44_display.md (R185): "Drawing the same sprite twice at the same position restores the framebuffer exactly", whatever
the coordinate registers are as long as they hold the same coordinates; and the second draw sets VF iff some lit sprite
bit covers a pixel that was 0 before the first draw. -/
def Obligations.DrwTwiceRestoresTheScreen : Prop :=
  ∀ (s : State) (x y : RegIdx) (n : Fin 16), (n.val = 0 ∨ s.I.toNat + (n.val - 1) < 4096) →
    ∃ t, exec (.drw x y n) s = .next t ∧
      ∀ u : State, u.fb = t.fb → u.mem = t.mem → u.I = t.I → u.reg x = s.reg x → u.reg y = s.reg y →
        ∃ v, exec (.drw x y n) u = .next v ∧ (∀ py px, v.pixel py px = s.pixel py px) ∧
          (v.reg 15 = 1 ↔ ∃ row col, row < n.val ∧ col < 8 ∧ (s.byte (s.I.toNat + row)).getLsbD (7 - col) = true ∧
            s.pixel (wrapRow ((s.reg y).toNat + row)) (wrapCol ((s.reg x).toNat + col)) = false)

/-! Keypad and timers. -/

/-- R193, R194, R195: `Fx07` reads DT, `Fx15` writes DT, `Fx18` writes ST, and `sound_on` is then true iff `V[x] > 0`;
nothing else changes. (That a tick decrements before its handler runs is TimersCountDownEachTick.) -/
def Obligations.TimerTransfers : Prop :=
  ∀ (s : State) (x : RegIdx),
    decode (packXK 0xF x 0x07) = .ok (.ldVxDT x) ∧ decode (packXK 0xF x 0x15) = .ok (.ldDTVx x) ∧
    decode (packXK 0xF x 0x18) = .ok (.ldSTVx x) ∧
    (∃ t, exec (.ldVxDT x) s = .next t ∧ t.reg x = s.DT ∧ OnlyRegs (· = x) s t) ∧
    (∃ t, exec (.ldDTVx x) s = .next t ∧ t.DT = s.reg x ∧ t.ST = s.ST ∧ OnlyTimers s t) ∧
    (∃ t, exec (.ldSTVx x) s = .next t ∧ t.ST = s.reg x ∧ t.DT = s.DT ∧
      (soundOn t = true ↔ 0 < (s.reg x).toNat) ∧ OnlyTimers s t)

/-- R196: with a key down, `V[x]` takes the least such key; with none, `pc` goes back to the instruction's own address and
nothing else changes. -/
def Obligations.KeyWaitTakesLowestKey : Prop :=
  ∀ (s : State) (x : RegIdx), decode (packXK 0xF x 0x0A) = .ok (.ldVxK x) ∧
    (∀ k : Fin 16, s.key[k] = true → (∀ j : Fin 16, j < k → s.key[j] = false) →
      ∃ t, exec (.ldVxK x) s = .next t ∧ (t.reg x).toNat = k.val ∧ OnlyRegs (· = x) s t) ∧
    ((∀ k : Fin 16, s.key[k] = false) → ∃ t, exec (.ldVxK x) s = .next t ∧ t.pc = s.pc - 2 ∧ OnlyPc s t)

/-- 45_keypad_timers.md (R196, R197): while the host presents no key, any number of ticks leave `pc` at the `Fx0A` and every
register, slot, pixel and byte as it was, and the timers run down, one count a tick. -/
def Obligations.KeyWaitRepeatsWhileNoKey : Prop :=
  ∀ (x : RegIdx) (waits rest : List TickInput) (s : State), s.fault = none → s.fetchInRange = true →
    decode s.fetchWord = .ok (.ldVxK x) → s.host.inputs = waits ++ rest → (∀ inp ∈ waits, inp.keys = noKeys) →
    ∃ t, core.run waits.length s = .next t ∧ t.pc = s.pc ∧ t.fault = none ∧
      t.DT.toNat = s.DT.toNat - waits.length ∧ t.ST.toNat = s.ST.toNat - waits.length ∧
      KeepsRegsBut (fun _ => False) s t ∧ t.I = s.I ∧ KeepsStack s t ∧ KeepsScreen s t ∧ KeepsMemory s t

/-- 70_reset_and_hazards.md section 3 (R250, the spec's decision D15): from a parked state every further tick leaves it
parked, with every register, `I`, `pc`, the stack, RAM and the screen unchanged, whatever the host presents, and the
timers counting down to 0. -/
def Obligations.ParkedStaysParked : Prop :=
  ∀ (n : Nat) (s : State), s.parked = true → ∃ t, core.run n s = .next t ∧ t.parked = true ∧ t.pc = s.pc ∧
    t.DT.toNat = s.DT.toNat - n ∧ t.ST.toNat = s.ST.toNat - n ∧
    KeepsRegsBut (fun _ => False) s t ∧ t.I = s.I ∧ KeepsStack s t ∧ KeepsScreen s t ∧ KeepsMemory s t

/-- 60_exceptions.md section 4 (R227, R228, R230, the spec's decision D1) and section 1 (the codes of R210, decision D6):
the six output ports as functions of the state. What `load_err` shows after the load has answered is log entry 8. -/
def Obligations.OutputPorts : Prop :=
  ∀ s : State, (outputs s).framebuffer = s.fb ∧ ((outputs s).soundOn = true ↔ 0 < s.ST.toNat) ∧
    ((outputs s).faultCause = 0 ↔ s.fault = none) ∧
    ((outputs s).loadErr = 0 ↔ s.host.loadErr = none) ∧
    ((outputs s).loadErr = 4 ↔ s.host.loadErr = some .romTooLarge) ∧
    ∀ r, s.fault = some r →
      (outputs s).faultOpcode = some r.opcode ∧ (outputs s).faultPc = some r.pcAtFetch ∧
      ((outputs s).faultCause = 1 ↔ r.cause = .unknownOpcode) ∧
      ((outputs s).faultCause = 2 ↔ r.cause = .stackUnderflow) ∧
      ((outputs s).faultCause = 3 ↔ r.cause = .stackOverflow) ∧
      ((outputs s).faultCause = 5 ↔ r.cause = .addressOutOfRange)
end

