-- ==== Sys2Proof/Laws/Encoding.lean ====
section
/-! SUPPORT. The fields of an instruction word as numbers, and each operand of each format read back whole (30_encoding.md R71, R72). -/

namespace Sys2Proof

theorem toNat_append_eq {m n : Nat} (a : BitVec m) (b : BitVec n) : (a ++ b).toNat = a.toNat * 2 ^ n + b.toNat := by
  rw [BitVec.toNat_append, ← Nat.shiftLeft_add_eq_or_of_lt b.isLt, Nat.shiftLeft_eq]

section Packing

variable (a b c d : BitVec 4) (x y : RegIdx) (kk : Byte) (nnn : Imm12)

theorem toNat_packNibbles :
    (packNibbles a b c d).toNat = a.toNat * 4096 + b.toNat * 256 + c.toNat * 16 + d.toNat := by
  show (a ++ b ++ c ++ d : BitVec (4 + 4 + 4 + 4)).toNat = _
  simp only [toNat_append_eq]; omega

theorem toNat_packXK : (packXK a x kk).toNat = a.toNat * 4096 + x.val * 256 + kk.toNat := by
  show (a ++ BitVec.ofFin (w := 4) x ++ kk : BitVec (4 + 4 + 8)).toNat = _
  simp only [toNat_append_eq, BitVec.toNat_ofFin]; omega

theorem toNat_packXYN : (packXYN a x y d).toNat = a.toNat * 4096 + x.val * 256 + y.val * 16 + d.toNat :=
  toNat_packNibbles a _ _ d

theorem toNat_packA : (packA a nnn).toNat = a.toNat * 4096 + nnn.toNat := toNat_append_eq a nnn

end Packing

section Fields

variable (w : Word)

theorem toNat_nib3 : (nib3 w).toNat = w.toNat / 4096 := by
  have := w.isLt
  simp only [nib3, BitVec.extractLsb'_toNat, Nat.shiftRight_eq_div_pow]; omega

theorem toNat_nib2 : (nib2 w).toNat = w.toNat / 256 % 16 := by
  simp only [nib2, BitVec.extractLsb'_toNat, Nat.shiftRight_eq_div_pow, Nat.reducePow]

theorem toNat_nib1 : (nib1 w).toNat = w.toNat / 16 % 16 := by
  simp only [nib1, BitVec.extractLsb'_toNat, Nat.shiftRight_eq_div_pow, Nat.reducePow]

theorem toNat_nib0 : (nib0 w).toNat = w.toNat % 16 := by
  simp only [nib0, BitVec.extractLsb'_toNat, Nat.shiftRight_eq_div_pow, Nat.reducePow, Nat.div_one]

theorem val_fieldX : (fieldX w).val = w.toNat / 256 % 16 := toNat_nib2 w

theorem val_fieldY : (fieldY w).val = w.toNat / 16 % 16 := toNat_nib1 w

theorem val_fieldN : (fieldN w).val = w.toNat % 16 := toNat_nib0 w

theorem toNat_fieldKK : (fieldKK w).toNat = w.toNat % 256 := by
  simp only [fieldKK, BitVec.extractLsb'_toNat, Nat.shiftRight_eq_div_pow, Nat.reducePow, Nat.div_one]

theorem toNat_fieldNNN : (fieldNNN w).toNat = w.toNat % 4096 := by
  simp only [fieldNNN, BitVec.extractLsb'_toNat, Nat.shiftRight_eq_div_pow, Nat.reducePow, Nat.div_one]

theorem toNat_highByte : (highByte w).toNat = w.toNat / 256 := by
  have := w.isLt
  simp only [highByte, BitVec.extractLsb'_toNat, Nat.shiftRight_eq_div_pow]; omega

theorem toNat_lowByte : (lowByte w).toNat = w.toNat % 256 := toNat_fieldKK w

theorem toNat_wordOfBytes (hi lo : Byte) : (wordOfBytes hi lo).toNat = hi.toNat * 256 + lo.toNat :=
  toNat_append_eq hi lo

/-- The two bytes of a word, put together again. -/
@[simp] theorem wordOfBytes_split : wordOfBytes (highByte w) (lowByte w) = w := by
  apply BitVec.eq_of_toNat_eq
  rw [toNat_wordOfBytes, toNat_highByte, toNat_lowByte]; omega

end Fields

section ReadBack

variable (a d : BitVec 4) (x y : RegIdx) (kk : Byte) (nnn : Imm12)

@[simp] theorem nib3_packA : nib3 (packA a nnn) = a := by
  have := nnn.isLt
  apply BitVec.eq_of_toNat_eq; rw [toNat_nib3, toNat_packA]; omega

@[simp] theorem fieldNNN_packA : fieldNNN (packA a nnn) = nnn := by
  have := nnn.isLt
  apply BitVec.eq_of_toNat_eq; rw [toNat_fieldNNN, toNat_packA]; omega

@[simp] theorem nib3_packXK : nib3 (packXK a x kk) = a := by
  have := kk.isLt; have := x.isLt
  apply BitVec.eq_of_toNat_eq; rw [toNat_nib3, toNat_packXK]; omega

@[simp] theorem fieldX_packXK : fieldX (packXK a x kk) = x := by
  have := kk.isLt; have := x.isLt
  apply Fin.ext; rw [val_fieldX, toNat_packXK]; omega

@[simp] theorem fieldKK_packXK : fieldKK (packXK a x kk) = kk := by
  have := kk.isLt
  apply BitVec.eq_of_toNat_eq; rw [toNat_fieldKK, toNat_packXK]; omega

@[simp] theorem nib3_packXYN : nib3 (packXYN a x y d) = a := by
  have := d.isLt; have := x.isLt; have := y.isLt
  apply BitVec.eq_of_toNat_eq; rw [toNat_nib3, toNat_packXYN]; omega

@[simp] theorem fieldX_packXYN : fieldX (packXYN a x y d) = x := by
  have := d.isLt; have := x.isLt; have := y.isLt
  apply Fin.ext; rw [val_fieldX, toNat_packXYN]; omega

@[simp] theorem fieldY_packXYN : fieldY (packXYN a x y d) = y := by
  have := d.isLt; have := x.isLt; have := y.isLt
  apply Fin.ext; rw [val_fieldY, toNat_packXYN]; omega

@[simp] theorem nib0_packXYN : nib0 (packXYN a x y d) = d := by
  have := d.isLt
  apply BitVec.eq_of_toNat_eq; rw [toNat_nib0, toNat_packXYN]; omega

@[simp] theorem fieldN_packXYN : fieldN (packXYN a x y d) = d.toFin := by
  have := d.isLt
  apply Fin.ext; rw [val_fieldN, toNat_packXYN]; show _ = d.toNat; omega

end ReadBack

end Sys2Proof
end

