-- ==== Sys2Proof/Laws/Memory.lean ====
section
/-! SUPPORT. The laws of RAM: a read after a write, a write leaves every other address alone, and every write keeps the canonical form. -/

namespace Sys2Proof.Machine

theorem Memory.read_erase (m : Memory) (a b : Nat) :
    (m.erase a).read b = if b = a then Memory.resetByte a else m.read b := by
  induction m with
  | nil => simp only [Memory.erase, Memory.read]; split <;> simp_all
  | cons c rest ih =>
    obtain ⟨k, v⟩ := c
    simp only [Memory.erase, Memory.read]
    split
    · rename_i h; rw [ih]; split <;> simp_all
    · rename_i h; simp only [Memory.read, ih]; split <;> simp_all
      rename_i h2; intro h3; exact absurd h3.symm h

theorem Memory.read_insert_of_erased (m : Memory) (a b : Nat) (v : Byte) :
    ((m.erase a).insert a v).read b = if b = a then v else m.read b := by
  induction m with
  | nil => simp only [Memory.erase, Memory.insert, Memory.read]
  | cons c rest ih =>
    obtain ⟨k, w⟩ := c
    simp only [Memory.erase]
    split
    · rename_i h; rw [ih]; simp only [Memory.read]; split <;> simp_all
    · rename_i h
      simp only [Memory.insert]
      split
      · simp only [Memory.read, Memory.read_erase]; split <;> simp_all
      · simp only [Memory.read, ih]; split <;> simp_all
        intro h3; exact absurd h3.symm h

/-- A read after a write: the written byte at its address, every other byte as before. -/
@[simp] theorem Memory.read_write (m : Memory) (a b : Nat) (v : Byte) :
    (m.write a v).read b = if b = a then v else m.read b := by
  unfold Memory.write
  split
  · rename_i h; rw [Memory.read_erase, ← h]
  · exact Memory.read_insert_of_erased m a b v

/-- A read after storing bytes at consecutive addresses: the stored byte inside the range, the old byte outside. -/
theorem Memory.read_writeBytes (m : Memory) (a b : Nat) (bs : List Byte) :
    (m.writeBytes a bs).read b = if a ≤ b ∧ b < a + bs.length then bs.getD (b - a) 0 else m.read b := by
  induction bs generalizing m a with
  | nil => simp [Memory.writeBytes]
  | cons x xs ih =>
    rw [Memory.writeBytes, ih, Memory.read_write]
    by_cases h1 : b = a
    · subst h1; simp
    · by_cases h2 : a + 1 ≤ b ∧ b < a + 1 + xs.length
      · have h3 : a ≤ b ∧ b < a + (x :: xs).length := by simp only [List.length_cons]; omega
        have h4 : b - a = (b - (a + 1)) + 1 := by omega
        rw [if_pos h2, if_pos h3, h4, List.getD_cons_succ]
      · have h3 : ¬ (a ≤ b ∧ b < a + (x :: xs).length) := by simp only [List.length_cons]; omega
        rw [if_neg h2, if_neg h1, if_neg h3]

/-- Storing bytes leaves every address outside them alone. -/
theorem Memory.read_writeBytes_outside (m : Memory) (a b : Nat) (bs : List Byte) (h : ¬ (a ≤ b ∧ b < a + bs.length)) :
    (m.writeBytes a bs).read b = m.read b := by
  rw [Memory.read_writeBytes, if_neg h]

@[simp] theorem Memory.length_readBytes (m : Memory) (a n : Nat) : (m.readBytes a n).length = n := by
  induction n generalizing a with
  | zero => rfl
  | succ n ih => simp [Memory.readBytes, ih]

/-- The `k`-th of the bytes read from an address on. -/
theorem Memory.readBytes_getElem (m : Memory) (a n k : Nat) (h : k < (m.readBytes a n).length) :
    (m.readBytes a n)[k] = m.read (a + k) := by
  induction n generalizing a k with
  | zero => simp [Memory.readBytes] at h
  | succ n ih =>
    cases k with
    | zero => simp [Memory.readBytes]
    | succ k =>
      simp only [Memory.readBytes, List.getElem_cons_succ]
      rw [ih]; congr 1; omega

theorem Memory.readBytes_getD (m : Memory) (a n k : Nat) (h : k < n) : (m.readBytes a n).getD k 0 = m.read (a + k) := by
  rw [List.getD_eq_getElem _ _ (by simpa using h), Memory.readBytes_getElem]

/-- The canonical form, said of a non-empty memory. -/
theorem Memory.wf_cons (a : Nat) (b : Byte) (rest : Memory) :
    Memory.wf ((a, b) :: rest) = true ↔
      a < Config.memorySize ∧ b ≠ Memory.resetByte a ∧ rest.wf = true ∧ ∀ c ∈ rest, a < c.1 := by
  induction rest generalizing a b with
  | nil => simp [Memory.wf]
  | cons c rest ih =>
    obtain ⟨a', b'⟩ := c
    simp only [Memory.wf, Bool.and_eq_true, decide_eq_true_eq, bne_iff_ne, ih a' b', List.mem_cons, forall_eq_or_imp]
    constructor
    · rintro ⟨⟨h1, h2⟩, h3, h4, h5, h6⟩
      exact ⟨by omega, h2, ⟨h3, h4, h5, h6⟩, h1, fun c hc => by have := h6 c hc; omega⟩
    · rintro ⟨_, h2, h3, h1, _⟩
      exact ⟨⟨h1, h2⟩, h3⟩

theorem Memory.mem_erase_of_mem {m : Memory} {a : Nat} {c : Host.Cell} (h : c ∈ m.erase a) : c ∈ m ∧ c.1 ≠ a := by
  induction m with
  | nil => simp [Memory.erase] at h
  | cons d rest ih =>
    obtain ⟨k, v⟩ := d
    simp only [Memory.erase] at h
    split at h
    · exact ⟨List.mem_cons_of_mem _ (ih h).1, (ih h).2⟩
    · rename_i hk
      rcases List.mem_cons.mp h with rfl | h
      · exact ⟨List.mem_cons_self, fun e => hk e.symm⟩
      · exact ⟨List.mem_cons_of_mem _ (ih h).1, (ih h).2⟩

theorem Memory.wf_erase {m : Memory} (a : Nat) (h : m.wf = true) : (m.erase a).wf = true := by
  induction m with
  | nil => rfl
  | cons c rest ih =>
    obtain ⟨k, v⟩ := c
    obtain ⟨h1, h2, h3, h4⟩ := (Memory.wf_cons k v rest).mp h
    simp only [Memory.erase]
    split
    · exact ih h3
    · exact (Memory.wf_cons _ _ _).mpr ⟨h1, h2, ih h3, fun c hc => h4 c (Memory.mem_erase_of_mem hc).1⟩

theorem Memory.mem_insert {m : Memory} {a : Nat} {b : Byte} {c : Host.Cell} (h : c ∈ m.insert a b) :
    c = (a, b) ∨ c ∈ m := by
  induction m with
  | nil => simpa [Memory.insert] using h
  | cons d rest ih =>
    obtain ⟨k, v⟩ := d
    simp only [Memory.insert] at h
    split at h
    · simpa using h
    · rcases List.mem_cons.mp h with rfl | h
      · exact .inr List.mem_cons_self
      · exact (ih h).imp id (List.mem_cons_of_mem _)

theorem Memory.wf_insert {m : Memory} {a : Nat} {b : Byte} (h : m.wf = true) (ha : a < Config.memorySize)
    (hb : b ≠ Memory.resetByte a) (hne : ∀ c ∈ m, c.1 ≠ a) : (m.insert a b).wf = true := by
  induction m with
  | nil => exact (Memory.wf_cons _ _ _).mpr ⟨ha, hb, rfl, by simp⟩
  | cons c rest ih =>
    obtain ⟨k, v⟩ := c
    obtain ⟨h1, h2, h3, h4⟩ := (Memory.wf_cons k v rest).mp h
    have hk : k ≠ a := hne (k, v) List.mem_cons_self
    simp only [Memory.insert]
    split
    · rename_i hlt
      refine (Memory.wf_cons _ _ _).mpr ⟨ha, hb, h, fun c hc => ?_⟩
      rcases List.mem_cons.mp hc with rfl | hc
      · exact hlt
      · exact Nat.lt_trans hlt (h4 c hc)
    · refine (Memory.wf_cons _ _ _).mpr ⟨h1, h2, ih h3 fun c hc => hne c (List.mem_cons_of_mem _ hc), fun c hc => ?_⟩
      rcases Memory.mem_insert hc with rfl | hc
      · show k < a; omega
      · exact h4 c hc

/-- Every write to an address of RAM keeps the canonical form. -/
theorem Memory.wf_write {m : Memory} {a : Nat} (b : Byte) (h : m.wf = true) (ha : a < Config.memorySize) :
    (m.write a b).wf = true := by
  unfold Memory.write
  split
  · exact Memory.wf_erase a h
  · rename_i hb
    exact Memory.wf_insert (Memory.wf_erase a h) ha hb fun c hc => (Memory.mem_erase_of_mem hc).2

/-- Storing bytes inside RAM keeps the canonical form. -/
theorem Memory.wf_writeBytes {m : Memory} {a : Nat} {bs : List Byte} (h : m.wf = true)
    (ha : a + bs.length ≤ Config.memorySize) : (m.writeBytes a bs).wf = true := by
  induction bs generalizing m a with
  | nil => exact h
  | cons b bs ih =>
    simp only [List.length_cons] at ha
    exact ih (Memory.wf_write b h (by omega)) (by omega)

/-- In canonical form, memories that read the same are the same data. -/
theorem Memory.ext_of_read {m n : Memory} (hm : m.wf = true) (hn : n.wf = true) (h : ∀ a, m.read a = n.read a) : m = n := by
  have low : ∀ (m : Memory) (a : Nat), (∀ c ∈ m, a < c.1) → m.read a = Memory.resetByte a := by
    intro m a hlt
    induction m with
    | nil => rfl
    | cons c rest ih =>
      obtain ⟨k, v⟩ := c
      have : a < k := hlt (k, v) List.mem_cons_self
      simp only [Memory.read]
      rw [if_neg (by omega)]
      exact ih fun c hc => hlt c (List.mem_cons_of_mem _ hc)
  induction m generalizing n with
  | nil =>
    cases n with
    | nil => rfl
    | cons c rest =>
      obtain ⟨k, v⟩ := c
      have := h k
      simp only [Memory.read, if_true] at this
      exact absurd this.symm ((Memory.wf_cons _ _ _).mp hn).2.1
  | cons c rest ih =>
    obtain ⟨k, v⟩ := c
    obtain ⟨-, m2, m3, m4⟩ := (Memory.wf_cons _ _ _).mp hm
    cases n with
    | nil =>
      have := h k
      simp only [Memory.read, if_true] at this
      exact absurd this m2
    | cons d rest' =>
      obtain ⟨l, w⟩ := d
      obtain ⟨-, n2, n3, n4⟩ := (Memory.wf_cons _ _ _).mp hn
      have hk := h k
      have hl := h l
      simp only [Memory.read, if_true] at hk hl
      have hkl : k = l := by
        by_contra hne
        rcases Nat.lt_or_gt_of_ne hne with hlt | hlt
        · rw [if_neg hne, low rest' k fun c hc => Nat.lt_trans hlt (n4 c hc)] at hk
          exact m2 hk
        · rw [if_neg (Ne.symm hne), low rest l fun c hc => Nat.lt_trans hlt (m4 c hc)] at hl
          exact n2 hl.symm
      subst hkl
      rw [if_pos rfl] at hk
      subst hk
      congr 1
      refine ih m3 n3 fun a => ?_
      have ha := h a
      simp only [Memory.read] at ha
      by_cases e : a = k
      · subst e; rw [low rest _ m4, low rest' _ n4]
      · rwa [if_neg e, if_neg e] at ha

end Sys2Proof.Machine
end

