-- ==== Sys2Proof/Laws/State.lean ====
section
/-! SUPPORT. One lemma per field per named update of the state, each true by definition: no later proof unfolds a record update. -/

namespace Sys2Proof.Machine

section
variable (s : State)

@[simp] theorem State.setReg_V (x : RegIdx) (b : Byte) : (s.setReg x b).V = s.V.set x b := rfl
@[simp] theorem State.setReg_I (x : RegIdx) (b : Byte) : (s.setReg x b).I = s.I := rfl
@[simp] theorem State.setReg_pc (x : RegIdx) (b : Byte) : (s.setReg x b).pc = s.pc := rfl
@[simp] theorem State.setReg_SP (x : RegIdx) (b : Byte) : (s.setReg x b).SP = s.SP := rfl
@[simp] theorem State.setReg_stack (x : RegIdx) (b : Byte) : (s.setReg x b).stack = s.stack := rfl
@[simp] theorem State.setReg_DT (x : RegIdx) (b : Byte) : (s.setReg x b).DT = s.DT := rfl
@[simp] theorem State.setReg_ST (x : RegIdx) (b : Byte) : (s.setReg x b).ST = s.ST := rfl
@[simp] theorem State.setReg_opcode (x : RegIdx) (b : Byte) : (s.setReg x b).opcode = s.opcode := rfl
@[simp] theorem State.setReg_key (x : RegIdx) (b : Byte) : (s.setReg x b).key = s.key := rfl
@[simp] theorem State.setReg_fb (x : RegIdx) (b : Byte) : (s.setReg x b).fb = s.fb := rfl
@[simp] theorem State.setReg_mem (x : RegIdx) (b : Byte) : (s.setReg x b).mem = s.mem := rfl
@[simp] theorem State.setReg_fault (x : RegIdx) (b : Byte) : (s.setReg x b).fault = s.fault := rfl
@[simp] theorem State.setReg_host (x : RegIdx) (b : Byte) : (s.setReg x b).host = s.host := rfl

end

section
variable (s : State)

@[simp] theorem State.setI_V (w : Word) : (s.setI w).V = s.V := rfl
@[simp] theorem State.setI_I (w : Word) : (s.setI w).I = w := rfl
@[simp] theorem State.setI_pc (w : Word) : (s.setI w).pc = s.pc := rfl
@[simp] theorem State.setI_SP (w : Word) : (s.setI w).SP = s.SP := rfl
@[simp] theorem State.setI_stack (w : Word) : (s.setI w).stack = s.stack := rfl
@[simp] theorem State.setI_DT (w : Word) : (s.setI w).DT = s.DT := rfl
@[simp] theorem State.setI_ST (w : Word) : (s.setI w).ST = s.ST := rfl
@[simp] theorem State.setI_opcode (w : Word) : (s.setI w).opcode = s.opcode := rfl
@[simp] theorem State.setI_key (w : Word) : (s.setI w).key = s.key := rfl
@[simp] theorem State.setI_fb (w : Word) : (s.setI w).fb = s.fb := rfl
@[simp] theorem State.setI_mem (w : Word) : (s.setI w).mem = s.mem := rfl
@[simp] theorem State.setI_fault (w : Word) : (s.setI w).fault = s.fault := rfl
@[simp] theorem State.setI_host (w : Word) : (s.setI w).host = s.host := rfl

end

section
variable (s : State)

@[simp] theorem State.setPc_V (w : Word) : (s.setPc w).V = s.V := rfl
@[simp] theorem State.setPc_I (w : Word) : (s.setPc w).I = s.I := rfl
@[simp] theorem State.setPc_pc (w : Word) : (s.setPc w).pc = w := rfl
@[simp] theorem State.setPc_SP (w : Word) : (s.setPc w).SP = s.SP := rfl
@[simp] theorem State.setPc_stack (w : Word) : (s.setPc w).stack = s.stack := rfl
@[simp] theorem State.setPc_DT (w : Word) : (s.setPc w).DT = s.DT := rfl
@[simp] theorem State.setPc_ST (w : Word) : (s.setPc w).ST = s.ST := rfl
@[simp] theorem State.setPc_opcode (w : Word) : (s.setPc w).opcode = s.opcode := rfl
@[simp] theorem State.setPc_key (w : Word) : (s.setPc w).key = s.key := rfl
@[simp] theorem State.setPc_fb (w : Word) : (s.setPc w).fb = s.fb := rfl
@[simp] theorem State.setPc_mem (w : Word) : (s.setPc w).mem = s.mem := rfl
@[simp] theorem State.setPc_fault (w : Word) : (s.setPc w).fault = s.fault := rfl
@[simp] theorem State.setPc_host (w : Word) : (s.setPc w).host = s.host := rfl

end

section
variable (s : State)

@[simp] theorem State.setDT_V (b : Byte) : (s.setDT b).V = s.V := rfl
@[simp] theorem State.setDT_I (b : Byte) : (s.setDT b).I = s.I := rfl
@[simp] theorem State.setDT_pc (b : Byte) : (s.setDT b).pc = s.pc := rfl
@[simp] theorem State.setDT_SP (b : Byte) : (s.setDT b).SP = s.SP := rfl
@[simp] theorem State.setDT_stack (b : Byte) : (s.setDT b).stack = s.stack := rfl
@[simp] theorem State.setDT_DT (b : Byte) : (s.setDT b).DT = b := rfl
@[simp] theorem State.setDT_ST (b : Byte) : (s.setDT b).ST = s.ST := rfl
@[simp] theorem State.setDT_opcode (b : Byte) : (s.setDT b).opcode = s.opcode := rfl
@[simp] theorem State.setDT_key (b : Byte) : (s.setDT b).key = s.key := rfl
@[simp] theorem State.setDT_fb (b : Byte) : (s.setDT b).fb = s.fb := rfl
@[simp] theorem State.setDT_mem (b : Byte) : (s.setDT b).mem = s.mem := rfl
@[simp] theorem State.setDT_fault (b : Byte) : (s.setDT b).fault = s.fault := rfl
@[simp] theorem State.setDT_host (b : Byte) : (s.setDT b).host = s.host := rfl

end

section
variable (s : State)

@[simp] theorem State.setST_V (b : Byte) : (s.setST b).V = s.V := rfl
@[simp] theorem State.setST_I (b : Byte) : (s.setST b).I = s.I := rfl
@[simp] theorem State.setST_pc (b : Byte) : (s.setST b).pc = s.pc := rfl
@[simp] theorem State.setST_SP (b : Byte) : (s.setST b).SP = s.SP := rfl
@[simp] theorem State.setST_stack (b : Byte) : (s.setST b).stack = s.stack := rfl
@[simp] theorem State.setST_DT (b : Byte) : (s.setST b).DT = s.DT := rfl
@[simp] theorem State.setST_ST (b : Byte) : (s.setST b).ST = b := rfl
@[simp] theorem State.setST_opcode (b : Byte) : (s.setST b).opcode = s.opcode := rfl
@[simp] theorem State.setST_key (b : Byte) : (s.setST b).key = s.key := rfl
@[simp] theorem State.setST_fb (b : Byte) : (s.setST b).fb = s.fb := rfl
@[simp] theorem State.setST_mem (b : Byte) : (s.setST b).mem = s.mem := rfl
@[simp] theorem State.setST_fault (b : Byte) : (s.setST b).fault = s.fault := rfl
@[simp] theorem State.setST_host (b : Byte) : (s.setST b).host = s.host := rfl

end

section
variable (s : State)

@[simp] theorem State.setOpcode_V (w : Word) : (s.setOpcode w).V = s.V := rfl
@[simp] theorem State.setOpcode_I (w : Word) : (s.setOpcode w).I = s.I := rfl
@[simp] theorem State.setOpcode_pc (w : Word) : (s.setOpcode w).pc = s.pc := rfl
@[simp] theorem State.setOpcode_SP (w : Word) : (s.setOpcode w).SP = s.SP := rfl
@[simp] theorem State.setOpcode_stack (w : Word) : (s.setOpcode w).stack = s.stack := rfl
@[simp] theorem State.setOpcode_DT (w : Word) : (s.setOpcode w).DT = s.DT := rfl
@[simp] theorem State.setOpcode_ST (w : Word) : (s.setOpcode w).ST = s.ST := rfl
@[simp] theorem State.setOpcode_opcode (w : Word) : (s.setOpcode w).opcode = w := rfl
@[simp] theorem State.setOpcode_key (w : Word) : (s.setOpcode w).key = s.key := rfl
@[simp] theorem State.setOpcode_fb (w : Word) : (s.setOpcode w).fb = s.fb := rfl
@[simp] theorem State.setOpcode_mem (w : Word) : (s.setOpcode w).mem = s.mem := rfl
@[simp] theorem State.setOpcode_fault (w : Word) : (s.setOpcode w).fault = s.fault := rfl
@[simp] theorem State.setOpcode_host (w : Word) : (s.setOpcode w).host = s.host := rfl

end

section
variable (s : State)

@[simp] theorem State.setKeys_V (k : Keypad) : (s.setKeys k).V = s.V := rfl
@[simp] theorem State.setKeys_I (k : Keypad) : (s.setKeys k).I = s.I := rfl
@[simp] theorem State.setKeys_pc (k : Keypad) : (s.setKeys k).pc = s.pc := rfl
@[simp] theorem State.setKeys_SP (k : Keypad) : (s.setKeys k).SP = s.SP := rfl
@[simp] theorem State.setKeys_stack (k : Keypad) : (s.setKeys k).stack = s.stack := rfl
@[simp] theorem State.setKeys_DT (k : Keypad) : (s.setKeys k).DT = s.DT := rfl
@[simp] theorem State.setKeys_ST (k : Keypad) : (s.setKeys k).ST = s.ST := rfl
@[simp] theorem State.setKeys_opcode (k : Keypad) : (s.setKeys k).opcode = s.opcode := rfl
@[simp] theorem State.setKeys_key (k : Keypad) : (s.setKeys k).key = k := rfl
@[simp] theorem State.setKeys_fb (k : Keypad) : (s.setKeys k).fb = s.fb := rfl
@[simp] theorem State.setKeys_mem (k : Keypad) : (s.setKeys k).mem = s.mem := rfl
@[simp] theorem State.setKeys_fault (k : Keypad) : (s.setKeys k).fault = s.fault := rfl
@[simp] theorem State.setKeys_host (k : Keypad) : (s.setKeys k).host = s.host := rfl

end

section
variable (s : State)

@[simp] theorem State.setFb_V (f : Framebuffer) : (s.setFb f).V = s.V := rfl
@[simp] theorem State.setFb_I (f : Framebuffer) : (s.setFb f).I = s.I := rfl
@[simp] theorem State.setFb_pc (f : Framebuffer) : (s.setFb f).pc = s.pc := rfl
@[simp] theorem State.setFb_SP (f : Framebuffer) : (s.setFb f).SP = s.SP := rfl
@[simp] theorem State.setFb_stack (f : Framebuffer) : (s.setFb f).stack = s.stack := rfl
@[simp] theorem State.setFb_DT (f : Framebuffer) : (s.setFb f).DT = s.DT := rfl
@[simp] theorem State.setFb_ST (f : Framebuffer) : (s.setFb f).ST = s.ST := rfl
@[simp] theorem State.setFb_opcode (f : Framebuffer) : (s.setFb f).opcode = s.opcode := rfl
@[simp] theorem State.setFb_key (f : Framebuffer) : (s.setFb f).key = s.key := rfl
@[simp] theorem State.setFb_fb (f : Framebuffer) : (s.setFb f).fb = f := rfl
@[simp] theorem State.setFb_mem (f : Framebuffer) : (s.setFb f).mem = s.mem := rfl
@[simp] theorem State.setFb_fault (f : Framebuffer) : (s.setFb f).fault = s.fault := rfl
@[simp] theorem State.setFb_host (f : Framebuffer) : (s.setFb f).host = s.host := rfl

end

section
variable (s : State)

@[simp] theorem State.setMem_V (m : Memory) : (s.setMem m).V = s.V := rfl
@[simp] theorem State.setMem_I (m : Memory) : (s.setMem m).I = s.I := rfl
@[simp] theorem State.setMem_pc (m : Memory) : (s.setMem m).pc = s.pc := rfl
@[simp] theorem State.setMem_SP (m : Memory) : (s.setMem m).SP = s.SP := rfl
@[simp] theorem State.setMem_stack (m : Memory) : (s.setMem m).stack = s.stack := rfl
@[simp] theorem State.setMem_DT (m : Memory) : (s.setMem m).DT = s.DT := rfl
@[simp] theorem State.setMem_ST (m : Memory) : (s.setMem m).ST = s.ST := rfl
@[simp] theorem State.setMem_opcode (m : Memory) : (s.setMem m).opcode = s.opcode := rfl
@[simp] theorem State.setMem_key (m : Memory) : (s.setMem m).key = s.key := rfl
@[simp] theorem State.setMem_fb (m : Memory) : (s.setMem m).fb = s.fb := rfl
@[simp] theorem State.setMem_mem (m : Memory) : (s.setMem m).mem = m := rfl
@[simp] theorem State.setMem_fault (m : Memory) : (s.setMem m).fault = s.fault := rfl
@[simp] theorem State.setMem_host (m : Memory) : (s.setMem m).host = s.host := rfl

end

section
variable (s : State)

@[simp] theorem State.setFault_V (r : FaultRecord) : (s.setFault r).V = s.V := rfl
@[simp] theorem State.setFault_I (r : FaultRecord) : (s.setFault r).I = s.I := rfl
@[simp] theorem State.setFault_pc (r : FaultRecord) : (s.setFault r).pc = s.pc := rfl
@[simp] theorem State.setFault_SP (r : FaultRecord) : (s.setFault r).SP = s.SP := rfl
@[simp] theorem State.setFault_stack (r : FaultRecord) : (s.setFault r).stack = s.stack := rfl
@[simp] theorem State.setFault_DT (r : FaultRecord) : (s.setFault r).DT = s.DT := rfl
@[simp] theorem State.setFault_ST (r : FaultRecord) : (s.setFault r).ST = s.ST := rfl
@[simp] theorem State.setFault_opcode (r : FaultRecord) : (s.setFault r).opcode = s.opcode := rfl
@[simp] theorem State.setFault_key (r : FaultRecord) : (s.setFault r).key = s.key := rfl
@[simp] theorem State.setFault_fb (r : FaultRecord) : (s.setFault r).fb = s.fb := rfl
@[simp] theorem State.setFault_mem (r : FaultRecord) : (s.setFault r).mem = s.mem := rfl
@[simp] theorem State.setFault_fault (r : FaultRecord) : (s.setFault r).fault = some r := rfl
@[simp] theorem State.setFault_host (r : FaultRecord) : (s.setFault r).host = s.host := rfl

end

section
variable (s : State)

@[simp] theorem State.setHost_V (h : HostSide) : (s.setHost h).V = s.V := rfl
@[simp] theorem State.setHost_I (h : HostSide) : (s.setHost h).I = s.I := rfl
@[simp] theorem State.setHost_pc (h : HostSide) : (s.setHost h).pc = s.pc := rfl
@[simp] theorem State.setHost_SP (h : HostSide) : (s.setHost h).SP = s.SP := rfl
@[simp] theorem State.setHost_stack (h : HostSide) : (s.setHost h).stack = s.stack := rfl
@[simp] theorem State.setHost_DT (h : HostSide) : (s.setHost h).DT = s.DT := rfl
@[simp] theorem State.setHost_ST (h : HostSide) : (s.setHost h).ST = s.ST := rfl
@[simp] theorem State.setHost_opcode (h : HostSide) : (s.setHost h).opcode = s.opcode := rfl
@[simp] theorem State.setHost_key (h : HostSide) : (s.setHost h).key = s.key := rfl
@[simp] theorem State.setHost_fb (h : HostSide) : (s.setHost h).fb = s.fb := rfl
@[simp] theorem State.setHost_mem (h : HostSide) : (s.setHost h).mem = s.mem := rfl
@[simp] theorem State.setHost_fault (h : HostSide) : (s.setHost h).fault = s.fault := rfl
@[simp] theorem State.setHost_host (h : HostSide) : (s.setHost h).host = h := rfl

end

section
variable (s : State)

@[simp] theorem State.pushPc_V (h : s.SP.val < 16) : (s.pushPc h).V = s.V := rfl
@[simp] theorem State.pushPc_I (h : s.SP.val < 16) : (s.pushPc h).I = s.I := rfl
@[simp] theorem State.pushPc_pc (h : s.SP.val < 16) : (s.pushPc h).pc = s.pc := rfl
@[simp] theorem State.pushPc_SP (h : s.SP.val < 16) : (s.pushPc h).SP = ⟨s.SP.val + 1, Nat.succ_lt_succ h⟩ := rfl
@[simp] theorem State.pushPc_stack (h : s.SP.val < 16) : (s.pushPc h).stack = s.stack.set s.SP.val s.pc := rfl
@[simp] theorem State.pushPc_DT (h : s.SP.val < 16) : (s.pushPc h).DT = s.DT := rfl
@[simp] theorem State.pushPc_ST (h : s.SP.val < 16) : (s.pushPc h).ST = s.ST := rfl
@[simp] theorem State.pushPc_opcode (h : s.SP.val < 16) : (s.pushPc h).opcode = s.opcode := rfl
@[simp] theorem State.pushPc_key (h : s.SP.val < 16) : (s.pushPc h).key = s.key := rfl
@[simp] theorem State.pushPc_fb (h : s.SP.val < 16) : (s.pushPc h).fb = s.fb := rfl
@[simp] theorem State.pushPc_mem (h : s.SP.val < 16) : (s.pushPc h).mem = s.mem := rfl
@[simp] theorem State.pushPc_fault (h : s.SP.val < 16) : (s.pushPc h).fault = s.fault := rfl
@[simp] theorem State.pushPc_host (h : s.SP.val < 16) : (s.pushPc h).host = s.host := rfl

end

section
variable (s : State)

@[simp] theorem State.popPc_V (h : 0 < s.SP.val) : (s.popPc h).V = s.V := rfl
@[simp] theorem State.popPc_I (h : 0 < s.SP.val) : (s.popPc h).I = s.I := rfl
@[simp] theorem State.popPc_pc (h : 0 < s.SP.val) : (s.popPc h).pc = s.stack[s.SP.val - 1]'(by have := s.SP.isLt; omega) := rfl
@[simp] theorem State.popPc_SP (h : 0 < s.SP.val) : (s.popPc h).SP = ⟨s.SP.val - 1, Nat.lt_of_le_of_lt (Nat.sub_le _ _) s.SP.isLt⟩ := rfl
@[simp] theorem State.popPc_stack (h : 0 < s.SP.val) : (s.popPc h).stack = s.stack := rfl
@[simp] theorem State.popPc_DT (h : 0 < s.SP.val) : (s.popPc h).DT = s.DT := rfl
@[simp] theorem State.popPc_ST (h : 0 < s.SP.val) : (s.popPc h).ST = s.ST := rfl
@[simp] theorem State.popPc_opcode (h : 0 < s.SP.val) : (s.popPc h).opcode = s.opcode := rfl
@[simp] theorem State.popPc_key (h : 0 < s.SP.val) : (s.popPc h).key = s.key := rfl
@[simp] theorem State.popPc_fb (h : 0 < s.SP.val) : (s.popPc h).fb = s.fb := rfl
@[simp] theorem State.popPc_mem (h : 0 < s.SP.val) : (s.popPc h).mem = s.mem := rfl
@[simp] theorem State.popPc_fault (h : 0 < s.SP.val) : (s.popPc h).fault = s.fault := rfl
@[simp] theorem State.popPc_host (h : 0 < s.SP.val) : (s.popPc h).host = s.host := rfl

end

section
variable (s : State)

@[simp] theorem State.raise_V (c : FaultCause) (a : Word) : (s.raise c a).V = s.V := rfl
@[simp] theorem State.raise_I (c : FaultCause) (a : Word) : (s.raise c a).I = s.I := rfl
@[simp] theorem State.raise_pc (c : FaultCause) (a : Word) : (s.raise c a).pc = s.pc := rfl
@[simp] theorem State.raise_SP (c : FaultCause) (a : Word) : (s.raise c a).SP = s.SP := rfl
@[simp] theorem State.raise_stack (c : FaultCause) (a : Word) : (s.raise c a).stack = s.stack := rfl
@[simp] theorem State.raise_DT (c : FaultCause) (a : Word) : (s.raise c a).DT = s.DT := rfl
@[simp] theorem State.raise_ST (c : FaultCause) (a : Word) : (s.raise c a).ST = s.ST := rfl
@[simp] theorem State.raise_opcode (c : FaultCause) (a : Word) : (s.raise c a).opcode = s.opcode := rfl
@[simp] theorem State.raise_key (c : FaultCause) (a : Word) : (s.raise c a).key = s.key := rfl
@[simp] theorem State.raise_fb (c : FaultCause) (a : Word) : (s.raise c a).fb = s.fb := rfl
@[simp] theorem State.raise_mem (c : FaultCause) (a : Word) : (s.raise c a).mem = s.mem := rfl
@[simp] theorem State.raise_fault (c : FaultCause) (a : Word) : (s.raise c a).fault = some { cause := c, opcode := s.opcode, pcAtFetch := a } := rfl
@[simp] theorem State.raise_host (c : FaultCause) (a : Word) : (s.raise c a).host = s.host := rfl

end

section
variable (s : State)

@[simp] theorem State.raiseInHandler_V (c : FaultCause) : (s.raiseInHandler c).V = s.V := rfl
@[simp] theorem State.raiseInHandler_I (c : FaultCause) : (s.raiseInHandler c).I = s.I := rfl
@[simp] theorem State.raiseInHandler_pc (c : FaultCause) : (s.raiseInHandler c).pc = s.pc := rfl
@[simp] theorem State.raiseInHandler_SP (c : FaultCause) : (s.raiseInHandler c).SP = s.SP := rfl
@[simp] theorem State.raiseInHandler_stack (c : FaultCause) : (s.raiseInHandler c).stack = s.stack := rfl
@[simp] theorem State.raiseInHandler_DT (c : FaultCause) : (s.raiseInHandler c).DT = s.DT := rfl
@[simp] theorem State.raiseInHandler_ST (c : FaultCause) : (s.raiseInHandler c).ST = s.ST := rfl
@[simp] theorem State.raiseInHandler_opcode (c : FaultCause) : (s.raiseInHandler c).opcode = s.opcode := rfl
@[simp] theorem State.raiseInHandler_key (c : FaultCause) : (s.raiseInHandler c).key = s.key := rfl
@[simp] theorem State.raiseInHandler_fb (c : FaultCause) : (s.raiseInHandler c).fb = s.fb := rfl
@[simp] theorem State.raiseInHandler_mem (c : FaultCause) : (s.raiseInHandler c).mem = s.mem := rfl
@[simp] theorem State.raiseInHandler_fault (c : FaultCause) : (s.raiseInHandler c).fault = some { cause := c, opcode := s.opcode, pcAtFetch := s.pc - 2 } := rfl
@[simp] theorem State.raiseInHandler_host (c : FaultCause) : (s.raiseInHandler c).host = s.host := rfl

end

section
variable (s : State)

@[simp] theorem State.storeData_V (bs : List Byte) : (s.storeData bs).V = s.V := rfl
@[simp] theorem State.storeData_I (bs : List Byte) : (s.storeData bs).I = s.I := rfl
@[simp] theorem State.storeData_pc (bs : List Byte) : (s.storeData bs).pc = s.pc := rfl
@[simp] theorem State.storeData_SP (bs : List Byte) : (s.storeData bs).SP = s.SP := rfl
@[simp] theorem State.storeData_stack (bs : List Byte) : (s.storeData bs).stack = s.stack := rfl
@[simp] theorem State.storeData_DT (bs : List Byte) : (s.storeData bs).DT = s.DT := rfl
@[simp] theorem State.storeData_ST (bs : List Byte) : (s.storeData bs).ST = s.ST := rfl
@[simp] theorem State.storeData_opcode (bs : List Byte) : (s.storeData bs).opcode = s.opcode := rfl
@[simp] theorem State.storeData_key (bs : List Byte) : (s.storeData bs).key = s.key := rfl
@[simp] theorem State.storeData_fb (bs : List Byte) : (s.storeData bs).fb = s.fb := rfl
@[simp] theorem State.storeData_mem (bs : List Byte) : (s.storeData bs).mem = s.mem.writeBytes (s.dataAddr 0) bs := rfl
@[simp] theorem State.storeData_fault (bs : List Byte) : (s.storeData bs).fault = s.fault := rfl
@[simp] theorem State.storeData_host (bs : List Byte) : (s.storeData bs).host = s.host := rfl

end

section
variable (s : State)

@[simp] theorem State.setResultFlag_V (x : RegIdx) (r : Byte) (f : Bool) : (s.setResultFlag x r f).V = (s.V.set x r).set Config.flagReg (flagByte f) := rfl
@[simp] theorem State.setResultFlag_I (x : RegIdx) (r : Byte) (f : Bool) : (s.setResultFlag x r f).I = s.I := rfl
@[simp] theorem State.setResultFlag_pc (x : RegIdx) (r : Byte) (f : Bool) : (s.setResultFlag x r f).pc = s.pc := rfl
@[simp] theorem State.setResultFlag_SP (x : RegIdx) (r : Byte) (f : Bool) : (s.setResultFlag x r f).SP = s.SP := rfl
@[simp] theorem State.setResultFlag_stack (x : RegIdx) (r : Byte) (f : Bool) : (s.setResultFlag x r f).stack = s.stack := rfl
@[simp] theorem State.setResultFlag_DT (x : RegIdx) (r : Byte) (f : Bool) : (s.setResultFlag x r f).DT = s.DT := rfl
@[simp] theorem State.setResultFlag_ST (x : RegIdx) (r : Byte) (f : Bool) : (s.setResultFlag x r f).ST = s.ST := rfl
@[simp] theorem State.setResultFlag_opcode (x : RegIdx) (r : Byte) (f : Bool) : (s.setResultFlag x r f).opcode = s.opcode := rfl
@[simp] theorem State.setResultFlag_key (x : RegIdx) (r : Byte) (f : Bool) : (s.setResultFlag x r f).key = s.key := rfl
@[simp] theorem State.setResultFlag_fb (x : RegIdx) (r : Byte) (f : Bool) : (s.setResultFlag x r f).fb = s.fb := rfl
@[simp] theorem State.setResultFlag_mem (x : RegIdx) (r : Byte) (f : Bool) : (s.setResultFlag x r f).mem = s.mem := rfl
@[simp] theorem State.setResultFlag_fault (x : RegIdx) (r : Byte) (f : Bool) : (s.setResultFlag x r f).fault = s.fault := rfl
@[simp] theorem State.setResultFlag_host (x : RegIdx) (r : Byte) (f : Bool) : (s.setResultFlag x r f).host = s.host := rfl

end

section
variable (s : State)

@[simp] theorem State.presentPorts_V (r : Byte) : (s.presentPorts r).V = s.V := rfl
@[simp] theorem State.presentPorts_I (r : Byte) : (s.presentPorts r).I = s.I := rfl
@[simp] theorem State.presentPorts_pc (r : Byte) : (s.presentPorts r).pc = s.pc := rfl
@[simp] theorem State.presentPorts_SP (r : Byte) : (s.presentPorts r).SP = s.SP := rfl
@[simp] theorem State.presentPorts_stack (r : Byte) : (s.presentPorts r).stack = s.stack := rfl
@[simp] theorem State.presentPorts_DT (r : Byte) : (s.presentPorts r).DT = s.DT := rfl
@[simp] theorem State.presentPorts_ST (r : Byte) : (s.presentPorts r).ST = s.ST := rfl
@[simp] theorem State.presentPorts_opcode (r : Byte) : (s.presentPorts r).opcode = s.opcode := rfl
@[simp] theorem State.presentPorts_key (r : Byte) : (s.presentPorts r).key = s.key := rfl
@[simp] theorem State.presentPorts_fb (r : Byte) : (s.presentPorts r).fb = s.fb := rfl
@[simp] theorem State.presentPorts_mem (r : Byte) : (s.presentPorts r).mem = s.mem := rfl
@[simp] theorem State.presentPorts_fault (r : Byte) : (s.presentPorts r).fault = s.fault := rfl
@[simp] theorem State.presentPorts_host (r : Byte) : (s.presentPorts r).host = { s.host with rnd := r, boot := .running } := rfl

end

section
variable (s : State)

@[simp] theorem State.latchKeys_V (k : Keypad) : (s.latchKeys k).V = s.V := rfl
@[simp] theorem State.latchKeys_I (k : Keypad) : (s.latchKeys k).I = s.I := rfl
@[simp] theorem State.latchKeys_pc (k : Keypad) : (s.latchKeys k).pc = s.pc := rfl
@[simp] theorem State.latchKeys_SP (k : Keypad) : (s.latchKeys k).SP = s.SP := rfl
@[simp] theorem State.latchKeys_stack (k : Keypad) : (s.latchKeys k).stack = s.stack := rfl
@[simp] theorem State.latchKeys_DT (k : Keypad) : (s.latchKeys k).DT = s.DT := rfl
@[simp] theorem State.latchKeys_ST (k : Keypad) : (s.latchKeys k).ST = s.ST := rfl
@[simp] theorem State.latchKeys_opcode (k : Keypad) : (s.latchKeys k).opcode = s.opcode := rfl
@[simp] theorem State.latchKeys_key (k : Keypad) : (s.latchKeys k).key = k := rfl
@[simp] theorem State.latchKeys_fb (k : Keypad) : (s.latchKeys k).fb = s.fb := rfl
@[simp] theorem State.latchKeys_mem (k : Keypad) : (s.latchKeys k).mem = s.mem := rfl
@[simp] theorem State.latchKeys_fault (k : Keypad) : (s.latchKeys k).fault = s.fault := rfl
@[simp] theorem State.latchKeys_host (k : Keypad) : (s.latchKeys k).host = s.host := rfl

end

section
variable (s : State)

@[simp] theorem State.decrementTimers_V : (s.decrementTimers).V = s.V := rfl
@[simp] theorem State.decrementTimers_I : (s.decrementTimers).I = s.I := rfl
@[simp] theorem State.decrementTimers_pc : (s.decrementTimers).pc = s.pc := rfl
@[simp] theorem State.decrementTimers_SP : (s.decrementTimers).SP = s.SP := rfl
@[simp] theorem State.decrementTimers_stack : (s.decrementTimers).stack = s.stack := rfl
@[simp] theorem State.decrementTimers_DT : (s.decrementTimers).DT = countDown s.DT := rfl
@[simp] theorem State.decrementTimers_ST : (s.decrementTimers).ST = countDown s.ST := rfl
@[simp] theorem State.decrementTimers_opcode : (s.decrementTimers).opcode = s.opcode := rfl
@[simp] theorem State.decrementTimers_key : (s.decrementTimers).key = s.key := rfl
@[simp] theorem State.decrementTimers_fb : (s.decrementTimers).fb = s.fb := rfl
@[simp] theorem State.decrementTimers_mem : (s.decrementTimers).mem = s.mem := rfl
@[simp] theorem State.decrementTimers_fault : (s.decrementTimers).fault = s.fault := rfl
@[simp] theorem State.decrementTimers_host : (s.decrementTimers).host = s.host := rfl

end

section
variable (s : State)

@[simp] theorem State.beginTick_V (inp : TickInput) : (s.beginTick inp).V = s.V := rfl
@[simp] theorem State.beginTick_I (inp : TickInput) : (s.beginTick inp).I = s.I := rfl
@[simp] theorem State.beginTick_pc (inp : TickInput) : (s.beginTick inp).pc = s.pc := rfl
@[simp] theorem State.beginTick_SP (inp : TickInput) : (s.beginTick inp).SP = s.SP := rfl
@[simp] theorem State.beginTick_stack (inp : TickInput) : (s.beginTick inp).stack = s.stack := rfl
@[simp] theorem State.beginTick_DT (inp : TickInput) : (s.beginTick inp).DT = countDown s.DT := rfl
@[simp] theorem State.beginTick_ST (inp : TickInput) : (s.beginTick inp).ST = countDown s.ST := rfl
@[simp] theorem State.beginTick_opcode (inp : TickInput) : (s.beginTick inp).opcode = s.opcode := rfl
@[simp] theorem State.beginTick_key (inp : TickInput) : (s.beginTick inp).key = inp.keys := rfl
@[simp] theorem State.beginTick_fb (inp : TickInput) : (s.beginTick inp).fb = s.fb := rfl
@[simp] theorem State.beginTick_mem (inp : TickInput) : (s.beginTick inp).mem = s.mem := rfl
@[simp] theorem State.beginTick_fault (inp : TickInput) : (s.beginTick inp).fault = s.fault := rfl
@[simp] theorem State.beginTick_host (inp : TickInput) : (s.beginTick inp).host = { s.host with rnd := inp.rnd, boot := .running } := rfl

end

section
variable (s : State)

@[simp] theorem State.fetched_V : (s.fetched).V = s.V := rfl
@[simp] theorem State.fetched_I : (s.fetched).I = s.I := rfl
@[simp] theorem State.fetched_pc : (s.fetched).pc = s.pc + 2 := rfl
@[simp] theorem State.fetched_SP : (s.fetched).SP = s.SP := rfl
@[simp] theorem State.fetched_stack : (s.fetched).stack = s.stack := rfl
@[simp] theorem State.fetched_DT : (s.fetched).DT = s.DT := rfl
@[simp] theorem State.fetched_ST : (s.fetched).ST = s.ST := rfl
@[simp] theorem State.fetched_opcode : (s.fetched).opcode = s.fetchWord := rfl
@[simp] theorem State.fetched_key : (s.fetched).key = s.key := rfl
@[simp] theorem State.fetched_fb : (s.fetched).fb = s.fb := rfl
@[simp] theorem State.fetched_mem : (s.fetched).mem = s.mem := rfl
@[simp] theorem State.fetched_fault : (s.fetched).fault = s.fault := rfl
@[simp] theorem State.fetched_host : (s.fetched).host = s.host := rfl

end

section
variable (s : State)

@[simp] theorem State.skipIf_pc (c : Bool) : (s.skipIf c).pc = if c then s.pc + 2 else s.pc := by
  cases c <;> rfl
@[simp] theorem State.skipIf_V (c : Bool) : (s.skipIf c).V = s.V := by cases c <;> rfl
@[simp] theorem State.skipIf_I (c : Bool) : (s.skipIf c).I = s.I := by cases c <;> rfl
@[simp] theorem State.skipIf_SP (c : Bool) : (s.skipIf c).SP = s.SP := by cases c <;> rfl
@[simp] theorem State.skipIf_stack (c : Bool) : (s.skipIf c).stack = s.stack := by cases c <;> rfl
@[simp] theorem State.skipIf_DT (c : Bool) : (s.skipIf c).DT = s.DT := by cases c <;> rfl
@[simp] theorem State.skipIf_ST (c : Bool) : (s.skipIf c).ST = s.ST := by cases c <;> rfl
@[simp] theorem State.skipIf_opcode (c : Bool) : (s.skipIf c).opcode = s.opcode := by cases c <;> rfl
@[simp] theorem State.skipIf_key (c : Bool) : (s.skipIf c).key = s.key := by cases c <;> rfl
@[simp] theorem State.skipIf_fb (c : Bool) : (s.skipIf c).fb = s.fb := by cases c <;> rfl
@[simp] theorem State.skipIf_mem (c : Bool) : (s.skipIf c).mem = s.mem := by cases c <;> rfl
@[simp] theorem State.skipIf_fault (c : Bool) : (s.skipIf c).fault = s.fault := by cases c <;> rfl
@[simp] theorem State.skipIf_host (c : Bool) : (s.skipIf c).host = s.host := by cases c <;> rfl

end

section

@[simp] theorem State.setRegsFrom_I (s : State) (k : Nat) (bs : List Byte) : (s.setRegsFrom k bs).I = s.I := by
  induction bs generalizing s k with
  | nil => rfl
  | cons b bs ih => rw [State.setRegsFrom, ih]
@[simp] theorem State.setRegsFrom_pc (s : State) (k : Nat) (bs : List Byte) : (s.setRegsFrom k bs).pc = s.pc := by
  induction bs generalizing s k with
  | nil => rfl
  | cons b bs ih => rw [State.setRegsFrom, ih]
@[simp] theorem State.setRegsFrom_SP (s : State) (k : Nat) (bs : List Byte) : (s.setRegsFrom k bs).SP = s.SP := by
  induction bs generalizing s k with
  | nil => rfl
  | cons b bs ih => rw [State.setRegsFrom, ih]
@[simp] theorem State.setRegsFrom_stack (s : State) (k : Nat) (bs : List Byte) : (s.setRegsFrom k bs).stack = s.stack := by
  induction bs generalizing s k with
  | nil => rfl
  | cons b bs ih => rw [State.setRegsFrom, ih]
@[simp] theorem State.setRegsFrom_DT (s : State) (k : Nat) (bs : List Byte) : (s.setRegsFrom k bs).DT = s.DT := by
  induction bs generalizing s k with
  | nil => rfl
  | cons b bs ih => rw [State.setRegsFrom, ih]
@[simp] theorem State.setRegsFrom_ST (s : State) (k : Nat) (bs : List Byte) : (s.setRegsFrom k bs).ST = s.ST := by
  induction bs generalizing s k with
  | nil => rfl
  | cons b bs ih => rw [State.setRegsFrom, ih]
@[simp] theorem State.setRegsFrom_opcode (s : State) (k : Nat) (bs : List Byte) : (s.setRegsFrom k bs).opcode = s.opcode := by
  induction bs generalizing s k with
  | nil => rfl
  | cons b bs ih => rw [State.setRegsFrom, ih]
@[simp] theorem State.setRegsFrom_key (s : State) (k : Nat) (bs : List Byte) : (s.setRegsFrom k bs).key = s.key := by
  induction bs generalizing s k with
  | nil => rfl
  | cons b bs ih => rw [State.setRegsFrom, ih]
@[simp] theorem State.setRegsFrom_fb (s : State) (k : Nat) (bs : List Byte) : (s.setRegsFrom k bs).fb = s.fb := by
  induction bs generalizing s k with
  | nil => rfl
  | cons b bs ih => rw [State.setRegsFrom, ih]
@[simp] theorem State.setRegsFrom_mem (s : State) (k : Nat) (bs : List Byte) : (s.setRegsFrom k bs).mem = s.mem := by
  induction bs generalizing s k with
  | nil => rfl
  | cons b bs ih => rw [State.setRegsFrom, ih]
@[simp] theorem State.setRegsFrom_fault (s : State) (k : Nat) (bs : List Byte) : (s.setRegsFrom k bs).fault = s.fault := by
  induction bs generalizing s k with
  | nil => rfl
  | cons b bs ih => rw [State.setRegsFrom, ih]
@[simp] theorem State.setRegsFrom_host (s : State) (k : Nat) (bs : List Byte) : (s.setRegsFrom k bs).host = s.host := by
  induction bs generalizing s k with
  | nil => rfl
  | cons b bs ih => rw [State.setRegsFrom, ih]

end

section
variable (s : State)

@[simp] theorem State.takeInput_host (h : s.fault = none) :
    s.takeInput.host = { s.host with inputs := s.host.inputs.tail, drawn := s.host.drawn + 1 } := by
  simp [State.takeInput, h]
@[simp] theorem State.takeInput_V : s.takeInput.V = s.V := by
  unfold State.takeInput; split <;> rfl
@[simp] theorem State.takeInput_I : s.takeInput.I = s.I := by
  unfold State.takeInput; split <;> rfl
@[simp] theorem State.takeInput_pc : s.takeInput.pc = s.pc := by
  unfold State.takeInput; split <;> rfl
@[simp] theorem State.takeInput_SP : s.takeInput.SP = s.SP := by
  unfold State.takeInput; split <;> rfl
@[simp] theorem State.takeInput_stack : s.takeInput.stack = s.stack := by
  unfold State.takeInput; split <;> rfl
@[simp] theorem State.takeInput_DT : s.takeInput.DT = s.DT := by
  unfold State.takeInput; split <;> rfl
@[simp] theorem State.takeInput_ST : s.takeInput.ST = s.ST := by
  unfold State.takeInput; split <;> rfl
@[simp] theorem State.takeInput_opcode : s.takeInput.opcode = s.opcode := by
  unfold State.takeInput; split <;> rfl
@[simp] theorem State.takeInput_key : s.takeInput.key = s.key := by
  unfold State.takeInput; split <;> rfl
@[simp] theorem State.takeInput_fb : s.takeInput.fb = s.fb := by
  unfold State.takeInput; split <;> rfl
@[simp] theorem State.takeInput_mem : s.takeInput.mem = s.mem := by
  unfold State.takeInput; split <;> rfl
@[simp] theorem State.takeInput_fault : s.takeInput.fault = s.fault := by
  unfold State.takeInput; split <;> rfl

end

end Sys2Proof.Machine
end

