-- ==== Sys2Proof/Laws/Registers.lean ====
section
/-! SUPPORT. Reading a general register after each update of the register file. -/

namespace Sys2Proof.Machine

/-- A read after a register write. -/
@[simp] theorem State.reg_setReg (s : State) (x r : RegIdx) (b : Byte) :
    (s.setReg x b).reg r = if r = x then b else s.reg r := by
  simp only [State.reg, State.setReg, Fin.getElem_fin, Vector.getElem_set, Fin.ext_iff, eq_comm]

/-- Two states with the same register file read the same. -/
theorem State.reg_eq_of_V {s t : State} (h : t.V = s.V) (r : RegIdx) : t.reg r = s.reg r := by
  simp only [State.reg, h]

/-- The result and the flag, read back: VF holds the flag, `V[x]` the result unless it is VF itself. -/
@[simp] theorem State.reg_setResultFlag (s : State) (x r : RegIdx) (b : Byte) (f : Bool) :
    (s.setResultFlag x b f).reg r = if r = Config.flagReg then flagByte f else if r = x then b else s.reg r := by
  simp only [State.setResultFlag, State.reg_setReg]

@[simp] theorem State.reg_setI (s : State) (w : Word) (r : RegIdx) : (s.setI w).reg r = s.reg r := rfl
@[simp] theorem State.reg_setPc (s : State) (w : Word) (r : RegIdx) : (s.setPc w).reg r = s.reg r := rfl
@[simp] theorem State.reg_setDT (s : State) (b : Byte) (r : RegIdx) : (s.setDT b).reg r = s.reg r := rfl
@[simp] theorem State.reg_setST (s : State) (b : Byte) (r : RegIdx) : (s.setST b).reg r = s.reg r := rfl
@[simp] theorem State.reg_setFb (s : State) (f : Framebuffer) (r : RegIdx) : (s.setFb f).reg r = s.reg r := rfl
@[simp] theorem State.reg_setMem (s : State) (m : Memory) (r : RegIdx) : (s.setMem m).reg r = s.reg r := rfl
@[simp] theorem State.reg_storeData (s : State) (bs : List Byte) (r : RegIdx) : (s.storeData bs).reg r = s.reg r := rfl
@[simp] theorem State.reg_raise (s : State) (c : FaultCause) (a : Word) (r : RegIdx) : (s.raise c a).reg r = s.reg r := rfl
@[simp] theorem State.reg_raiseInHandler (s : State) (c : FaultCause) (r : RegIdx) :
    (s.raiseInHandler c).reg r = s.reg r := rfl
@[simp] theorem State.reg_pushPc (s : State) (h : s.SP.val < 16) (r : RegIdx) : (s.pushPc h).reg r = s.reg r := rfl
@[simp] theorem State.reg_popPc (s : State) (h : 0 < s.SP.val) (r : RegIdx) : (s.popPc h).reg r = s.reg r := rfl
@[simp] theorem State.reg_beginTick (s : State) (inp : TickInput) (r : RegIdx) : (s.beginTick inp).reg r = s.reg r := rfl
@[simp] theorem State.reg_fetched (s : State) (r : RegIdx) : s.fetched.reg r = s.reg r := rfl

@[simp] theorem State.reg_skipIf (s : State) (c : Bool) (r : RegIdx) : (s.skipIf c).reg r = s.reg r :=
  State.reg_eq_of_V (State.skipIf_V s c) r

/-- Loading registers from `k` on: register `k + j` holds the `j`-th byte, every other register what it held. -/
theorem State.reg_setRegsFrom (s : State) (k : Nat) (bs : List Byte) (r : RegIdx) :
    (s.setRegsFrom k bs).reg r = if k ≤ r.val ∧ r.val < k + bs.length then bs.getD (r.val - k) 0 else s.reg r := by
  induction bs generalizing s k with
  | nil => simp [State.setRegsFrom]
  | cons b bs ih =>
    rw [State.setRegsFrom, ih]
    have hreg : State.reg { s with V := s.V.setIfInBounds k b } r = if k = r.val then b else s.reg r := by
      simp only [State.reg, Fin.getElem_fin, Vector.getElem_setIfInBounds]
    rw [hreg]
    by_cases h1 : k = r.val
    · subst h1
      rw [if_neg (by omega), if_pos rfl, if_pos (by simp), Nat.sub_self, List.getD_cons_zero]
    · rw [if_neg h1]
      by_cases h2 : k + 1 ≤ r.val ∧ r.val < k + 1 + bs.length
      · rw [if_pos h2, if_pos (by simp only [List.length_cons]; omega),
          show r.val - k = (r.val - (k + 1)) + 1 by omega, List.getD_cons_succ]
      · rw [if_neg h2, if_neg (by simp only [List.length_cons]; omega)]

/-- `V[0]` to `V[x]` are `x + 1` bytes. -/
@[simp] theorem State.length_regsUpTo (s : State) (x : RegIdx) : (s.regsUpTo x).length = x.val + 1 := by
  have := x.isLt
  simp only [State.regsUpTo, List.length_take, Vector.length_toList]; omega

/-- The `j`-th of `V[0]` to `V[x]` is `V[j]`. -/
theorem State.regsUpTo_getD (s : State) (x r : RegIdx) (h : r ≤ x) : (s.regsUpTo x).getD r.val 0 = s.reg r := by
  have h' : r.val < x.val + 1 := Nat.lt_succ_of_le h
  rw [List.getD_eq_getElem _ _ (by simpa using h')]
  simp [State.regsUpTo, State.reg]

end Sys2Proof.Machine
end

