-- ==== Sys2Proof/Laws/Operands.lean ====
section
/-! SUPPORT. What the operand forms and the flag computations answer (30_encoding.md R73; 10_state.md R22). -/

namespace Sys2Proof.Machine

theorem flagByte_eq_one (f : Bool) : flagByte f = 1 ↔ f = true := by cases f <;> decide

theorem flagByte_eq_zero (f : Bool) : flagByte f = 0 ↔ f = false := by cases f <;> decide

/-- A flag is always exactly 0 or 1. -/
theorem flagByte_zero_or_one (f : Bool) : flagByte f = 0 ∨ flagByte f = 1 := by cases f <;> decide

/-- The address check, for at least one byte: the last address used is below 4096 (20_memory.md R54). -/
theorem State.dataInRange_succ (s : State) (n : Nat) : s.dataInRange (n + 1) = true ↔ s.I.toNat + n < 4096 := by
  simp [State.dataInRange, State.dataAddr]

theorem State.dataInRange_iff (s : State) (n : Nat) :
    s.dataInRange n = true ↔ n = 0 ∨ s.I.toNat + (n - 1) < 4096 := by
  rw [State.dataInRange, Bool.or_eq_true, beq_iff_eq, decide_eq_true_eq]
  rfl

/-- Data in range is inside RAM. -/
theorem State.dataAddr_add_le {s : State} {n : Nat} (h : s.dataInRange n = true) (hn : n ≠ 0) :
    s.dataAddr 0 + n ≤ Config.memorySize := by
  rw [State.dataInRange_iff] at h
  simp only [State.dataAddr, Config.memorySize]; omega

/-- The low nibble as a number. -/
theorem lowNibble_val (v : Byte) : (lowNibble v).val = v.toNat % 16 := by
  show (v.extractLsb' 0 4).toNat = _
  simp only [BitVec.extractLsb'_toNat, Nat.shiftRight_eq_div_pow, Nat.reducePow, Nat.div_one]

/-- The address of a glyph (43_index_memory.md R163). -/
theorem glyphAddr_toNat (v : Byte) : (glyphAddr v).toNat = 0x050 + 5 * (v.toNat % 16) := by
  simp only [glyphAddr, lowNibble_val, BitVec.toNat_ofNat, Config.fontStart, Config.fontGlyphBytes]; omega

@[simp] theorem length_bcdDigits (v : Byte) : (bcdDigits v).length = 3 := rfl

/-- The scan finds no key exactly when none is down. -/
theorem State.firstKey_none (s : State) : s.firstKey = none ↔ ∀ k : Fin 16, s.key[k] = false := by
  simp [State.firstKey, List.find?_eq_none]

/-- A found key is down. -/
theorem State.firstKey_down {s : State} {k : Fin 16} (h : s.firstKey = some k) : s.key[k] = true := by
  unfold State.firstKey at h
  exact List.find?_some (p := fun k => s.key[k]) h

/-- A found key is the lowest that is down. -/
theorem State.firstKey_least {s : State} {k : Fin 16} (h : s.firstKey = some k) (j : Fin 16) (hj : j < k) :
    s.key[j] = false := by
  obtain ⟨-, as, bs, heq, hall⟩ := List.find?_eq_some_iff_append.mp h
  have hsort : (as ++ k :: bs).Pairwise (· < ·) := heq ▸ List.pairwise_lt_finRange 16
  have hmem : j ∈ as ++ k :: bs := heq ▸ List.mem_finRange j
  rcases List.mem_append.mp hmem with hm | hm
  · simpa using hall j hm
  · rcases List.mem_cons.mp hm with rfl | hm
    · exact absurd hj (lt_irrefl _)
    · have := (List.pairwise_cons.mp (List.pairwise_append.mp hsort).2.1).1 j hm
      exact absurd hj (not_lt.mpr (le_of_lt this))

/-- A store of data, read back. -/
theorem State.read_storeData (s : State) (bs : List Byte) (b : Nat) :
    (s.storeData bs).mem.read b =
      if s.dataAddr 0 ≤ b ∧ b < s.dataAddr 0 + bs.length then bs.getD (b - s.dataAddr 0) 0 else s.mem.read b :=
  Memory.read_writeBytes _ _ _ _

/-- A store of data in range keeps the canonical form of RAM. -/
theorem State.wf_storeData {s : State} {bs : List Byte} (h : s.mem.wf = true) (hr : s.dataInRange bs.length = true) :
    (s.storeData bs).mem.wf = true := by
  cases bs with
  | nil => exact h
  | cons b bs => exact Memory.wf_writeBytes h (State.dataAddr_add_le hr (by simp))

@[simp] theorem State.length_dataBytes (s : State) (n : Nat) : (s.dataBytes n).length = n := Memory.length_readBytes _ _ _

theorem State.dataBytes_getD (s : State) (n k : Nat) (h : k < n) :
    (s.dataBytes n).getD k 0 = s.mem.read (s.I.toNat + k) := Memory.readBytes_getD _ _ _ _ h

end Sys2Proof.Machine
end

