-- ==== Sys2Proof/Laws/Sprite.lean ====
section
/-! SUPPORT. The sprite engine, one lemma per operation: what a bit, a row and a whole sprite do to a pixel and to the
collision detector (44_display.md R182, R185). -/

namespace Sys2Proof.Machine

/-- One bit changes its own pixel by exclusive or and no other pixel. -/
theorem Canvas.drawBit_pixel (c : Canvas) (py y : Fin 32) (px x : Fin 64) (bit : Bool) :
    (c.drawBit py px bit).fb[y][x] = if y = py ∧ x = px then Bool.xor c.fb[py][px] bit else c.fb[y][x] := by
  simp only [Canvas.drawBit, Fin.getElem_fin, Vector.getElem_set, Fin.ext_iff]
  by_cases hy : py.val = y.val
  · by_cases hx : px.val = x.val
    · simp [hy, hx]
    · simp [hy, hx, Ne.symm hx]
  · simp [hy, Ne.symm hy]

/-- One bit sets the collision detector when it is 1 on a pixel that is 1. -/
theorem Canvas.drawBit_hit (c : Canvas) (py : Fin 32) (px : Fin 64) (bit : Bool) :
    (c.drawBit py px bit).hit = (c.hit || (bit && c.fb[py][px])) := rfl

/-- The screen row does not change when the coordinate is reduced first (R183). -/
theorem wrapRow_mod (a k : Nat) : wrapRow (a % 32 + k) = wrapRow (a + k) := Fin.ext (by simp [wrapRow])

/-- The screen column does not change when the coordinate is reduced first (R183). -/
theorem wrapCol_mod (a k : Nat) : wrapCol (a % 64 + k) = wrapCol (a + k) := Fin.ext (by simp [wrapCol])

/-- Columns of one sprite row are distinct pixels: eight consecutive columns never meet on a screen of 64. -/
theorem wrapCol_inj {sx j k : Nat} (hj : j < 8) (hk : k < 8) (h : wrapCol (sx + j) = wrapCol (sx + k)) : j = k := by
  have h' := congrArg Fin.val h
  simp only [wrapCol] at h'
  omega

/-- Rows of one sprite are distinct screen rows: fifteen consecutive rows never meet on a screen of 32. -/
theorem wrapRow_inj {sy j k : Nat} (hj : j < 16) (hk : k < 16) (h : wrapRow (sy + j) = wrapRow (sy + k)) : j = k := by
  have h' := congrArg Fin.val h
  simp only [wrapRow] at h'
  omega

/-- A pixel on no column of the row is left alone. -/
theorem Canvas.drawCols_pixel_other (c : Canvas) (byte : Byte) (sx : Nat) (py y : Fin 32) (x : Fin 64) (col n : Nat)
    (h : ∀ k, col ≤ k → k < col + n → ¬ (y = py ∧ x = wrapCol (sx + k))) :
    (c.drawCols byte sx py col n).fb[y][x] = c.fb[y][x] := by
  induction n generalizing c col with
  | zero => rfl
  | succ n ih =>
    rw [Canvas.drawCols, ih _ _ fun k h1 h2 => h k (by omega) (by omega), Canvas.drawBit_pixel,
      if_neg (h col (Nat.le_refl _) (by omega))]

/-- Each pixel of a sprite row ends as its old value exclusive-or the sprite bit. -/
theorem Canvas.drawCols_pixel (c : Canvas) (byte : Byte) (sx : Nat) (py : Fin 32) (col n k : Nat) (hn : col + n ≤ 8)
    (h1 : col ≤ k) (h2 : k < col + n) :
    (c.drawCols byte sx py col n).fb[py][wrapCol (sx + k)] =
      Bool.xor c.fb[py][wrapCol (sx + k)] (spriteBit byte k) := by
  induction n generalizing c col with
  | zero => omega
  | succ n ih =>
    rw [Canvas.drawCols]
    by_cases hk : k = col
    · subst hk
      rw [Canvas.drawCols_pixel_other _ _ _ _ _ _ _ _ fun j h3 h4 h5 =>
          absurd (wrapCol_inj (by omega) (by omega) h5.2) (by omega),
        Canvas.drawBit_pixel, if_pos ⟨rfl, rfl⟩]
    · rw [ih _ _ (by omega) (by omega) (by omega), Canvas.drawBit_pixel,
        if_neg fun h5 => hk (wrapCol_inj (by omega) (by omega) h5.2)]

/-- A sprite row sets the collision detector iff one of its 1 bits lands on a pixel that was 1. -/
theorem Canvas.drawCols_hit (c : Canvas) (byte : Byte) (sx : Nat) (py : Fin 32) (col n : Nat) (hn : col + n ≤ 8) :
    (c.drawCols byte sx py col n).hit = true ↔
      c.hit = true ∨ ∃ k, col ≤ k ∧ k < col + n ∧ spriteBit byte k = true ∧ c.fb[py][wrapCol (sx + k)] = true := by
  induction n generalizing c col with
  | zero =>
    refine ⟨.inl, fun h => h.elim id ?_⟩
    rintro ⟨k, h1, h2, -⟩; omega
  | succ n ih =>
    rw [Canvas.drawCols, ih _ _ (by omega), Canvas.drawBit_hit, Bool.or_eq_true, Bool.and_eq_true]
    have same : ∀ k, col + 1 ≤ k → k < col + 1 + n →
        (c.drawBit py (wrapCol (sx + col)) (spriteBit byte col)).fb[py][wrapCol (sx + k)] = c.fb[py][wrapCol (sx + k)] := by
      intro k h1 h2
      rw [Canvas.drawBit_pixel, if_neg fun h5 => absurd (wrapCol_inj (by omega) (by omega) h5.2) (by omega)]
    constructor
    · rintro ((h | ⟨hb, hp⟩) | ⟨k, h1, h2, hb, hp⟩)
      · exact .inl h
      · exact .inr ⟨col, Nat.le_refl _, by omega, hb, hp⟩
      · exact .inr ⟨k, by omega, by omega, hb, by rw [← same k h1 h2]; exact hp⟩
    · rintro (h | ⟨k, h1, h2, hb, hp⟩)
      · exact .inl (.inl h)
      · by_cases hk : k = col
        · subst hk; exact .inl (.inr ⟨hb, hp⟩)
        · exact .inr ⟨k, by omega, by omega, hb, by rw [same k (by omega) (by omega)]; exact hp⟩

/-- A pixel on no screen row of the sprite, or on no column of it, is left alone. -/
theorem Canvas.drawRows_pixel_other (c : Canvas) (sx sy row : Nat) (bs : List Byte) (y : Fin 32) (x : Fin 64)
    (h : ∀ r k, row ≤ r → r < row + bs.length → k < 8 → ¬ (y = wrapRow (sy + r) ∧ x = wrapCol (sx + k))) :
    (c.drawRows sx sy row bs).fb[y][x] = c.fb[y][x] := by
  induction bs generalizing c row with
  | nil => rfl
  | cons b bs ih =>
    simp only [List.length_cons] at h
    rw [Canvas.drawRows, ih _ _ fun r k h1 h2 h3 => h r k (by omega) (by omega) h3,
      Canvas.drawCols_pixel_other _ _ _ _ _ _ _ _ fun k _ h2 => h row k (Nat.le_refl _) (by omega) (by omega)]

/-- Each pixel of a sprite ends as its old value exclusive-or the sprite bit. -/
theorem Canvas.drawRows_pixel (c : Canvas) (sx sy row : Nat) (bs : List Byte) (r k : Nat) (hn : row + bs.length ≤ 16)
    (h1 : row ≤ r) (h2 : r < row + bs.length) (hk : k < 8) :
    (c.drawRows sx sy row bs).fb[wrapRow (sy + r)][wrapCol (sx + k)] =
      Bool.xor c.fb[wrapRow (sy + r)][wrapCol (sx + k)] (spriteBit (bs.getD (r - row) 0) k) := by
  induction bs generalizing c row with
  | nil => simp only [List.length_nil] at h2; omega
  | cons b bs ih =>
    simp only [List.length_cons] at hn h2
    rw [Canvas.drawRows]
    by_cases hr : r = row
    · subst hr
      rw [Canvas.drawRows_pixel_other _ _ _ _ _ _ _ fun j k h3 h4 _ h5 =>
          absurd (wrapRow_inj (by omega) (by omega) h5.1) (by omega),
        Canvas.drawCols_pixel _ _ _ _ _ _ _ (by omega) (Nat.zero_le _) (by omega), Nat.sub_self, List.getD_cons_zero]
    · rw [ih _ _ (by omega) (by omega) (by omega),
        Canvas.drawCols_pixel_other _ _ _ _ _ _ _ _ fun j _ _ h5 => hr (wrapRow_inj (by omega) (by omega) h5.1),
        show r - row = (r - (row + 1)) + 1 by omega, List.getD_cons_succ]

/-- A sprite sets the collision detector iff one of its 1 bits lands on a pixel that was 1 before the draw. -/
theorem Canvas.drawRows_hit (c : Canvas) (sx sy row : Nat) (bs : List Byte) (hn : row + bs.length ≤ 16) :
    (c.drawRows sx sy row bs).hit = true ↔
      c.hit = true ∨ ∃ r k, row ≤ r ∧ r < row + bs.length ∧ k < 8 ∧ spriteBit (bs.getD (r - row) 0) k = true ∧
        c.fb[wrapRow (sy + r)][wrapCol (sx + k)] = true := by
  induction bs generalizing c row with
  | nil =>
    refine ⟨.inl, fun h => h.elim id ?_⟩
    rintro ⟨r, k, h1, h2, -⟩; simp only [List.length_nil] at h2; omega
  | cons b bs ih =>
    simp only [List.length_cons] at hn ⊢
    rw [Canvas.drawRows, ih _ _ (by omega), Canvas.drawCols_hit _ _ _ _ _ _ (by omega)]
    have same : ∀ r k, row + 1 ≤ r → r < row + 1 + bs.length →
        (c.drawCols b sx (wrapRow (sy + row)) 0 8).fb[wrapRow (sy + r)][wrapCol (sx + k)] =
          c.fb[wrapRow (sy + r)][wrapCol (sx + k)] := by
      intro r k h1 h2
      exact Canvas.drawCols_pixel_other _ _ _ _ _ _ _ _ fun j _ _ h5 =>
        absurd (wrapRow_inj (by omega) (by omega) h5.1) (by omega)
    constructor
    · rintro ((h | ⟨k, -, h2, hb, hp⟩) | ⟨r, k, h1, h2, hk, hb, hp⟩)
      · exact .inl h
      · exact .inr ⟨row, k, Nat.le_refl _, by omega, by omega, by simpa using hb, hp⟩
      · refine .inr ⟨r, k, by omega, by omega, hk, ?_, by rw [← same r k h1 h2]; exact hp⟩
        rw [show r - row = (r - (row + 1)) + 1 by omega, List.getD_cons_succ]; exact hb
    · rintro (h | ⟨r, k, h1, h2, hk, hb, hp⟩)
      · exact .inl (.inl h)
      · by_cases hr : r = row
        · subst hr
          exact .inl (.inr ⟨k, Nat.zero_le _, by omega, by simpa using hb, hp⟩)
        · refine .inr ⟨r, k, by omega, by omega, hk, ?_, by rw [same r k (by omega) (by omega)]; exact hp⟩
          rwa [show r - row = (r - (row + 1)) + 1 by omega, List.getD_cons_succ] at hb

end Sys2Proof.Machine
end

