-- ==== Sys2Proof/Laws/Handlers.lean ====
section
/-! SUPPORT. What each handler that can fault does: its effect when its one check passes, the fault it takes when it does not (60_exceptions.md R219). -/

namespace Sys2Proof.Machine

section

variable (s : State)

theorem execRet_pops (h : 0 < s.SP.val) : execRet s = .next (s.popPc h) := by rw [execRet, dif_pos h]

theorem execRet_underflows (h : s.SP.val = 0) : execRet s = .next (s.raiseInHandler .stackUnderflow) := by
  rw [execRet, dif_neg (by omega)]

theorem execCall_pushes (nnn : Imm12) (h : s.SP.val < 16) :
    execCall nnn s = .next ((s.pushPc h).setPc (nnn.zeroExtend 16)) := by rw [execCall, dif_pos h]

theorem execCall_overflows (nnn : Imm12) (h : s.SP.val = 16) :
    execCall nnn s = .next (s.raiseInHandler .stackOverflow) := by rw [execCall, dif_neg (by omega)]

theorem execLdB_stores (x : RegIdx) (h : s.dataInRange 3 = true) :
    execLdB x s = .next (s.storeData (bcdDigits (s.reg x))) := by rw [execLdB, if_pos h]

theorem execLdB_faults (x : RegIdx) (h : s.dataInRange 3 = false) :
    execLdB x s = .next (s.raiseInHandler .addressOutOfRange) := by rw [execLdB, if_neg (by simp [h])]

theorem execStoreRegs_stores (x : RegIdx) (h : s.dataInRange (x.val + 1) = true) :
    execStoreRegs x s = .next (s.storeData (s.regsUpTo x)) := by rw [execStoreRegs, if_pos h]

theorem execStoreRegs_faults (x : RegIdx) (h : s.dataInRange (x.val + 1) = false) :
    execStoreRegs x s = .next (s.raiseInHandler .addressOutOfRange) := by rw [execStoreRegs, if_neg (by simp [h])]

theorem execLoadRegs_loads (x : RegIdx) (h : s.dataInRange (x.val + 1) = true) :
    execLoadRegs x s = .next (s.setRegsFrom 0 (s.dataBytes (x.val + 1))) := by rw [execLoadRegs, if_pos h]

theorem execLoadRegs_faults (x : RegIdx) (h : s.dataInRange (x.val + 1) = false) :
    execLoadRegs x s = .next (s.raiseInHandler .addressOutOfRange) := by rw [execLoadRegs, if_neg (by simp [h])]

theorem execDrw_draws (x y : RegIdx) (n : Fin 16) (h : s.dataInRange n.val = true) :
    execDrw x y n s =
      .next ((s.setFb (s.drawn x y n.val).fb).setReg Config.flagReg (flagByte (s.drawn x y n.val).hit)) := by
  rw [execDrw, if_pos h]

theorem execDrw_faults (x y : RegIdx) (n : Fin 16) (h : s.dataInRange n.val = false) :
    execDrw x y n s = .next (s.raiseInHandler .addressOutOfRange) := by rw [execDrw, if_neg (by simp [h])]

/-- `Fx0A` with a key down writes the lowest one's index. -/
theorem execLdVxK_found (x : RegIdx) {k : Fin 16} (h : s.firstKey = some k) :
    execLdVxK x s = .next (s.setReg x (BitVec.ofNat 8 k.val)) := by rw [execLdVxK, h]; rfl

/-- `Fx0A` with no key down goes back to its own address. -/
theorem execLdVxK_waits (x : RegIdx) (h : s.firstKey = none) : execLdVxK x s = .next (s.setPc (s.pc - 2)) := by
  rw [execLdVxK, h]; rfl

end

end Sys2Proof.Machine
end

