-- ==== Sys2Proof/Laws/Host.lean ====
section
/-! SUPPORT. What `load_rom` does, in its three cases (70_reset_and_hazards.md R246, R247), and what reset does to the
host's record. -/

namespace Sys2Proof.Machine

/-- In its place, an image that fits is copied and no error is reported. -/
theorem loadRom_fits {bytes : List Byte} {s : State} (h : s.host.boot = .afterReset) (hb : bytes.length ≤ 3584) :
    loadRom bytes s = .next ((s.setMem (s.mem.writeBytes 0x200 bytes)).setHost
      { s.host with boot := .loaded, loadErr := none }) := by
  rw [loadRom, if_pos h, if_pos (show bytes.length ≤ Config.maxRom from hb)]

/-- In its place, an image that does not fit changes no state of the core and is reported on `load_err` (R215). -/
theorem loadRom_tooLarge {bytes : List Byte} {s : State} (h : s.host.boot = .afterReset) (hb : 3584 < bytes.length) :
    loadRom bytes s = .next (s.setHost { s.host with boot := .loaded, loadErr := some .romTooLarge }) := by
  rw [loadRom, if_pos h, if_neg (show ¬ bytes.length ≤ Config.maxRom from Nat.not_le.mpr hb)]

/-- Out of its place a load has no transition (R247). -/
theorem loadRom_outsideBoot {bytes : List Byte} {s : State} (h : s.host.boot ≠ .afterReset) :
    loadRom bytes s = .refused .loadOutsideBoot := by rw [loadRom, if_neg h]

/-- A load, from canonical memory, leaves canonical memory. -/
theorem loadRom_mem_wf {bytes : List Byte} {s t : State} (hs : s.mem.wf = true) (h : loadRom bytes s = .next t) :
    t.mem.wf = true := by
  unfold loadRom at h
  split at h
  · split at h <;> cases h
    · rename_i hb
      exact Memory.wf_writeBytes hs (by simp only [Config.maxRom, Config.memorySize, Config.romStart] at *; omega)
    · exact hs
  · cases h

/-- After a reset nothing has been loaded and `load_err` shows none. -/
@[simp] theorem loadErr_resetCore (s : State) : loadErr (resetCore s) = 0 := rfl

end Sys2Proof.Machine
end

