-- ==== Sys2Proof/Laws/PerInstr.lean ====
section
/-! SUPPORT. Statements made per instruction, as syntax. Family EncodesItsRow: an instruction's word has the fixed bits
of its row of the opcode map, whatever its operands (30_encoding.md R75). -/

namespace Sys2Proof

/-- Under the mask 0xF000 only the leading nibble of a word of format A is left. -/
theorem packA_mask (a : BitVec 4) (nnn : Imm12) : packA a nnn &&& 0xF000 = packA a 0 := by
  show (a ++ nnn) &&& (0xF#4 ++ 0#12) = a ++ 0#12
  rw [BitVec.and_append]
  exact congrArg₂ _ (BitVec.and_allOnes (x := a)) BitVec.and_zero

/-- Under the mask 0xF000 only the leading nibble of a word of format XK is left. -/
theorem packXK_mask (a : BitVec 4) (x : RegIdx) (kk : Byte) : packXK a x kk &&& 0xF000 = packXK a 0 0 := by
  show (a ++ BitVec.ofFin (w := 4) x ++ kk) &&& (0xF#4 ++ 0#4 ++ 0#8) = a ++ 0#4 ++ 0#8
  rw [BitVec.and_append, BitVec.and_append]
  exact congrArg₂ _ (congrArg₂ _ (BitVec.and_allOnes (x := a)) BitVec.and_zero) BitVec.and_zero

/-- Under the mask 0xF0FF only the register field of a word of format X is lost. -/
theorem packXK_mask0 (a : BitVec 4) (x : RegIdx) (kk : Byte) : packXK a x kk &&& 0xF0FF = packXK a 0 kk := by
  show (a ++ BitVec.ofFin (w := 4) x ++ kk) &&& (0xF#4 ++ 0#4 ++ 0xFF#8) = a ++ 0#4 ++ kk
  rw [BitVec.and_append, BitVec.and_append]
  exact congrArg₂ _ (congrArg₂ _ (BitVec.and_allOnes (x := a)) BitVec.and_zero) (BitVec.and_allOnes (x := kk))

/-- Under the mask 0xF000 only the leading nibble of a word of format XYN is left. -/
theorem packXYN_mask (a : BitVec 4) (x y : RegIdx) (n : BitVec 4) : packXYN a x y n &&& 0xF000 = packXYN a 0 0 0 := by
  show (a ++ BitVec.ofFin (w := 4) x ++ BitVec.ofFin (w := 4) y ++ n) &&& (0xF#4 ++ 0#4 ++ 0#4 ++ 0#4) = a ++ 0#4 ++ 0#4 ++ 0#4
  rw [BitVec.and_append, BitVec.and_append, BitVec.and_append]
  exact congrArg₂ _ (congrArg₂ _ (congrArg₂ _ (BitVec.and_allOnes (x := a)) BitVec.and_zero) BitVec.and_zero) BitVec.and_zero

/-- Under the mask 0xF00F only the register fields of a word of format XY are lost. -/
theorem packXYN_mask0 (a : BitVec 4) (x y : RegIdx) (n : BitVec 4) : packXYN a x y n &&& 0xF00F = packXYN a 0 0 n := by
  show (a ++ BitVec.ofFin (w := 4) x ++ BitVec.ofFin (w := 4) y ++ n) &&& (0xF#4 ++ 0#4 ++ 0#4 ++ 0xF#4) = a ++ 0#4 ++ 0#4 ++ n
  rw [BitVec.and_append, BitVec.and_append, BitVec.and_append]
  exact congrArg₂ _ (congrArg₂ _ (congrArg₂ _ (BitVec.and_allOnes (x := a)) BitVec.and_zero) BitVec.and_zero)
    (BitVec.and_allOnes (x := n))

namespace Laws.EncodesItsRow

/-- The instruction's row of the opcode map accepts the instruction's word (R75). -/
def Statement (i : Instr) : Prop := encode i &&& i.row.mask = i.row.value

theorem cls : Statement .cls := rfl
theorem ret : Statement .ret := rfl
theorem jp (nnn : Imm12) : Statement (.jp nnn) := (packA_mask _ nnn).trans rfl
theorem call (nnn : Imm12) : Statement (.call nnn) := (packA_mask _ nnn).trans rfl
theorem seImm (x : RegIdx) (kk : Byte) : Statement (.seImm x kk) := (packXK_mask _ x kk).trans rfl
theorem sneImm (x : RegIdx) (kk : Byte) : Statement (.sneImm x kk) := (packXK_mask _ x kk).trans rfl
theorem seReg (x y : RegIdx) : Statement (.seReg x y) := (packXYN_mask0 _ x y _).trans rfl
theorem ldImm (x : RegIdx) (kk : Byte) : Statement (.ldImm x kk) := (packXK_mask _ x kk).trans rfl
theorem addImm (x : RegIdx) (kk : Byte) : Statement (.addImm x kk) := (packXK_mask _ x kk).trans rfl
theorem ldReg (x y : RegIdx) : Statement (.ldReg x y) := (packXYN_mask0 _ x y _).trans rfl
theorem orReg (x y : RegIdx) : Statement (.orReg x y) := (packXYN_mask0 _ x y _).trans rfl
theorem andReg (x y : RegIdx) : Statement (.andReg x y) := (packXYN_mask0 _ x y _).trans rfl
theorem xorReg (x y : RegIdx) : Statement (.xorReg x y) := (packXYN_mask0 _ x y _).trans rfl
theorem addReg (x y : RegIdx) : Statement (.addReg x y) := (packXYN_mask0 _ x y _).trans rfl
theorem subReg (x y : RegIdx) : Statement (.subReg x y) := (packXYN_mask0 _ x y _).trans rfl
theorem shr (x y : RegIdx) : Statement (.shr x y) := (packXYN_mask0 _ x y _).trans rfl
theorem subnReg (x y : RegIdx) : Statement (.subnReg x y) := (packXYN_mask0 _ x y _).trans rfl
theorem shl (x y : RegIdx) : Statement (.shl x y) := (packXYN_mask0 _ x y _).trans rfl
theorem sneReg (x y : RegIdx) : Statement (.sneReg x y) := (packXYN_mask0 _ x y _).trans rfl
theorem ldI (nnn : Imm12) : Statement (.ldI nnn) := (packA_mask _ nnn).trans rfl
theorem jpV0 (nnn : Imm12) : Statement (.jpV0 nnn) := (packA_mask _ nnn).trans rfl
theorem rnd (x : RegIdx) (kk : Byte) : Statement (.rnd x kk) := (packXK_mask _ x kk).trans rfl
theorem drw (x y : RegIdx) (n : Fin 16) : Statement (.drw x y n) := (packXYN_mask _ x y _).trans rfl
theorem skp (x : RegIdx) : Statement (.skp x) := (packXK_mask0 _ x _).trans rfl
theorem sknp (x : RegIdx) : Statement (.sknp x) := (packXK_mask0 _ x _).trans rfl
theorem ldVxDT (x : RegIdx) : Statement (.ldVxDT x) := (packXK_mask0 _ x _).trans rfl
theorem ldVxK (x : RegIdx) : Statement (.ldVxK x) := (packXK_mask0 _ x _).trans rfl
theorem ldDTVx (x : RegIdx) : Statement (.ldDTVx x) := (packXK_mask0 _ x _).trans rfl
theorem ldSTVx (x : RegIdx) : Statement (.ldSTVx x) := (packXK_mask0 _ x _).trans rfl
theorem addI (x : RegIdx) : Statement (.addI x) := (packXK_mask0 _ x _).trans rfl
theorem ldF (x : RegIdx) : Statement (.ldF x) := (packXK_mask0 _ x _).trans rfl
theorem ldB (x : RegIdx) : Statement (.ldB x) := (packXK_mask0 _ x _).trans rfl
theorem storeRegs (x : RegIdx) : Statement (.storeRegs x) := (packXK_mask0 _ x _).trans rfl
theorem loadRegs (x : RegIdx) : Statement (.loadRegs x) := (packXK_mask0 _ x _).trans rfl

end Laws.EncodesItsRow

end Sys2Proof
end

