-- ==== Sys2Proof/Laws/Tick.lean ====
section
/-! SUPPORT. What a tick can do, said once: halted, a fetch fault, an unknown word, or one instruction
(40_tick_fetch_dispatch.md R99). Later proofs cite these and do not unfold the tick. -/

namespace Sys2Proof.Machine

theorem State.fetchInRange_iff (s : State) : s.fetchInRange = true ↔ s.pc.toNat + 1 < 4096 := by
  simp [State.fetchInRange]

/-- `pc` after the fetch, as a number: it cannot wrap (R96). -/
theorem State.fetched_pc_toNat {s : State} (h : s.fetchInRange = true) : s.fetched.pc.toNat = s.pc.toNat + 2 := by
  rw [State.fetchInRange_iff] at h
  rw [State.fetched_pc, BitVec.toNat_add]
  show (s.pc.toNat + 2) % 65536 = _
  omega

/-- The advanced `pc` less 2 is where the word was fetched (60_exceptions.md R218). -/
@[simp] theorem State.fetched_pc_sub_two (s : State) : s.fetched.pc - 2 = s.pc := by
  rw [State.fetched_pc, BitVec.add_sub_cancel]

@[simp] theorem State.fetchWord_beginTick (s : State) (inp : TickInput) : (s.beginTick inp).fetchWord = s.fetchWord := rfl

@[simp] theorem State.fetchInRange_beginTick (s : State) (inp : TickInput) :
    (s.beginTick inp).fetchInRange = s.fetchInRange := rfl

/-- A halted core does nothing (R100). -/
theorem tick_halted {inp : TickInput} {s : State} (h : s.fault ≠ none) : tick inp s = .next s := by
  rw [tick, if_pos (Option.isSome_iff_ne_none.mpr h)]

/-- An out-of-range `pc` faults at the fetch (R94). -/
theorem tick_fetch_fault {inp : TickInput} {s : State} (h : s.fault = none) (hr : s.fetchInRange = false) :
    tick inp s = .next ((s.beginTick inp).raise .addressOutOfRange s.pc) := by
  rw [tick, if_neg (by simp [h]), State.fetchInRange_beginTick, if_neg (by simp [hr])]
  rfl

/-- A tick that fetches: the dispatch of the fetched word (R95, R98). -/
theorem tick_dispatch {inp : TickInput} {s : State} (h : s.fault = none) (hr : s.fetchInRange = true) :
    tick inp s = (s.beginTick inp).fetched.dispatch := by
  rw [tick, if_neg (by simp [h]), State.fetchInRange_beginTick, if_pos hr]

/-- A tick whose word decodes runs the instruction's handler (R98). -/
theorem tick_exec {inp : TickInput} {s : State} {i : Instr} (h : s.fault = none) (hr : s.fetchInRange = true)
    (hd : decode s.fetchWord = .ok i) : tick inp s = exec i (s.beginTick inp).fetched := by
  rw [tick_dispatch h hr, State.dispatch, State.fetched_opcode, State.fetchWord_beginTick, hd]

/-- A tick whose word is unknown raises UnknownOpcode, with the address it was fetched from (60_exceptions.md R211). -/
theorem tick_unknown {inp : TickInput} {s : State} {e : DecodeReject} (h : s.fault = none) (hr : s.fetchInRange = true)
    (hd : decode s.fetchWord = .error e) :
    tick inp s = .next ((s.beginTick inp).fetched.raise .unknownOpcode s.pc) := by
  rw [tick_dispatch h hr, State.dispatch, State.fetched_opcode, State.fetchWord_beginTick, hd]
  simp only [State.raiseInHandler, State.fetched_pc_sub_two]
  rfl

/-- What a tick can do: one of four cases, and no other. -/
theorem tick_cases (inp : TickInput) (s : State) :
    (s.fault ≠ none ∧ tick inp s = .next s) ∨
    (s.fault = none ∧ s.fetchInRange = false ∧
      tick inp s = .next ((s.beginTick inp).raise .addressOutOfRange s.pc)) ∨
    (∃ e, s.fault = none ∧ s.fetchInRange = true ∧ decode s.fetchWord = .error e ∧
      tick inp s = .next ((s.beginTick inp).fetched.raise .unknownOpcode s.pc)) ∨
    (∃ i, s.fault = none ∧ s.fetchInRange = true ∧ decode s.fetchWord = .ok i ∧
      tick inp s = exec i (s.beginTick inp).fetched) := by
  by_cases h : s.fault = none
  · cases hr : s.fetchInRange with
    | false => exact .inr (.inl ⟨h, rfl, tick_fetch_fault h hr⟩)
    | true =>
      cases hd : decode s.fetchWord with
      | error e => exact .inr (.inr (.inl ⟨e, h, rfl, rfl, tick_unknown h hr hd⟩))
      | ok i => exact .inr (.inr (.inr ⟨i, h, rfl, rfl, tick_exec h hr hd⟩))
  · exact .inl ⟨h, tick_halted h⟩

/-- Taking an input changes nothing but the model's own record of the host. -/
theorem State.takeInput_of_halted {s : State} (h : s.fault ≠ none) : s.takeInput = s := by
  rw [State.takeInput, if_pos (Option.isSome_iff_ne_none.mpr h)]

@[simp] theorem State.fetchWord_takeInput (s : State) : s.takeInput.fetchWord = s.fetchWord := by
  simp only [State.fetchWord, State.takeInput_mem, State.takeInput_pc]

@[simp] theorem State.fetchInRange_takeInput (s : State) : s.takeInput.fetchInRange = s.fetchInRange := by
  simp only [State.fetchInRange, State.takeInput_pc]

/-- Taking an input, while the core runs: the queue and the counter move on (log entry 3). -/
theorem State.takeInput_of_running {s : State} (h : s.fault = none) :
    s.takeInput = s.setHost { s.host with inputs := s.host.inputs.tail, drawn := s.host.drawn + 1 } := by
  rw [State.takeInput, if_neg (by simp [h])]

/-- A timer's count, as a number: one less, and never below 0 (R92). -/
theorem countDown_toNat (t : Byte) : (countDown t).toNat = t.toNat - 1 := by
  unfold countDown
  split
  · rename_i h; subst h; rfl
  · rename_i h
    have h0 : t.toNat ≠ 0 := fun e => h (BitVec.eq_of_toNat_eq e)
    have := t.isLt
    rw [BitVec.toNat_sub]
    show (256 - 1 + t.toNat) % 256 = _
    omega

/-- A run of no tick. -/
@[simp] theorem core_run_zero (s : State) : core.run 0 s = .next s := rfl

/-- A run whose first tick is known (for any machine; `core` is the case used). -/
theorem run_succ_of_step (M : Host.Core) {n : Nat} {s t : M.State} (h : M.step s = .next t) : M.run (n + 1) s = M.run n t := by
  simp only [Host.Core.run, h]

/-- A run of the core whose first tick is known. -/
theorem core_run_succ {n : Nat} {s t : State} (h : step s = .next t) : core.run (n + 1) s = core.run n t :=
  run_succ_of_step core h

end Sys2Proof.Machine
end

