-- ==== Sys2Proof/Machine/Assembly.lean ====
section
/-! DEFINITION. Assembler notation (30_encoding.md R81, R82): how an instruction is written; it is never executed. -/

namespace Sys2Proof

/-- The name of a general register: `V` and the hexadecimal digit of its index (10_state.md R20). -/
def regName (x : RegIdx) : String := "V" ++ String.singleton (Nat.digitChar x.val).toUpper

/-- A number in hexadecimal with the prefix `0x` (R82). -/
def hexNumber (n : Nat) : String := "0x" ++ String.ofList ((Nat.toDigits 16 n).map Char.toUpper)

/-- Operand syntax `Vx,kk` (R81). -/
def asmXK (name : String) (x : RegIdx) (kk : Byte) : String := name ++ " " ++ regName x ++ "," ++ hexNumber kk.toNat

/-- Operand syntax `Vx,Vy` (R81, R82). -/
def asmXY (name : String) (x y : RegIdx) : String := name ++ " " ++ regName x ++ "," ++ regName y

/-- An instruction in the operand syntax of R81 and R82, destination first; `SHR Vx` and `SHL Vx` show no `y`. -/
def Instr.asm : Instr → String
  | .cls => "CLS"
  | .ret => "RET"
  | .jp nnn => "JP " ++ hexNumber nnn.toNat
  | .call nnn => "CALL " ++ hexNumber nnn.toNat
  | .seImm x kk => asmXK "SE" x kk
  | .sneImm x kk => asmXK "SNE" x kk
  | .seReg x y => asmXY "SE" x y
  | .ldImm x kk => asmXK "LD" x kk
  | .addImm x kk => asmXK "ADD" x kk
  | .ldReg x y => asmXY "LD" x y
  | .orReg x y => asmXY "OR" x y
  | .andReg x y => asmXY "AND" x y
  | .xorReg x y => asmXY "XOR" x y
  | .addReg x y => asmXY "ADD" x y
  | .subReg x y => asmXY "SUB" x y
  | .shr x _ => "SHR " ++ regName x
  | .subnReg x y => asmXY "SUBN" x y
  | .shl x _ => "SHL " ++ regName x
  | .sneReg x y => asmXY "SNE" x y
  | .ldI nnn => "LD I," ++ hexNumber nnn.toNat
  | .jpV0 nnn => "JP V0," ++ hexNumber nnn.toNat
  | .rnd x kk => asmXK "RND" x kk
  | .drw x y n => asmXY "DRW" x y ++ "," ++ toString n.val
  | .skp x => "SKP " ++ regName x
  | .sknp x => "SKNP " ++ regName x
  | .ldVxDT x => "LD " ++ regName x ++ ",DT"
  | .ldVxK x => "LD " ++ regName x ++ ",K"
  | .ldDTVx x => "LD DT," ++ regName x
  | .ldSTVx x => "LD ST," ++ regName x
  | .addI x => "ADD I," ++ regName x
  | .ldF x => "LD F," ++ regName x
  | .ldB x => "LD B," ++ regName x
  | .storeRegs x => "LD [I]," ++ regName x
  | .loadRegs x => "LD " ++ regName x ++ ",[I]"

end Sys2Proof
end

