-- ==== Sys2Proof/Tests/Slice0.lean ====
section
/-! SUPPORT. The model's own tests. Expected results come from the spec: the encodings of 30_encoding.md, and the vectors
of 95_test_vectors.md, named by their ids. Then one witness for each obligation that has hypotheses. -/

namespace Sys2Proof.Tests

open Sys2Proof.Machine

/-! Helpers. -/

/-- The keypad with these keys down. -/
def keysDown (ks : List (Fin 16)) : Keypad := Vector.ofFn fun k => decide (k ∈ ks)

/-- A state with these register values. -/
def withRegs (s : State) (l : List (RegIdx × Byte)) : State := l.foldl (fun s p => s.setReg p.1 p.2) s

/-- A state with these bytes from an address on. -/
def withBytes (s : State) (a : Nat) (bs : List Byte) : State := s.setMem (s.mem.writeBytes a bs)

/-- The state after one tick that fetches a word, with some keys down and a random byte on the port. -/
def after (s : State) (w : Nat) (ks : List (Fin 16) := []) (r : Byte := 0) : Option State :=
  match tick { keys := keysDown ks, rnd := r } (s.withFetchWord 16 w) with
  | .next t => some t
  | _ => none

/-- The state an instruction's handler leaves. -/
def handled (i : Instr) (s : State) : Option State :=
  match exec i s with
  | .next t => some t
  | _ => none

/-! WellFormed: one ill-formed word for each class of unknown words (30_encoding.md R78), and the map itself. -/

theorem test_wf_nib3_0 : wordWellFormed 0x00E1 = false := by decide
theorem test_wf_nib3_5 : wordWellFormed 0x5231 = false := by decide
theorem test_wf_nib3_8 : wordWellFormed 0x8128 = false := by decide
theorem test_wf_nib3_9 : wordWellFormed 0x923F = false := by decide
theorem test_wf_nib3_E : wordWellFormed 0xE19F = false := by decide
theorem test_wf_nib3_F : wordWellFormed 0xF175 = false := by decide
theorem test_wf_good : wordWellFormed 0x00EE = true ∧ wordWellFormed 0x5230 = true ∧ wordWellFormed 0xFF65 = true := by decide
theorem test_wf_row_outside : opcodeMap.contains ⟨0xF00F, 0x8008⟩ = false := by decide
theorem test_wf_instr : (Instr.drw 15 15 15).wellFormed = true ∧ (Instr.shl 0 15).wellFormed = true := by decide

/-! Decoding: a word for every constructor, its bits written out from the patterns of 30_encoding.md R71 and R75. -/

theorem test_decode_control :
    decode 0b0000000011100000 = .ok .cls ∧ decode 0b0000000011101110 = .ok .ret ∧
    decode 0b0001101010111100 = .ok (.jp 0xABC) ∧ decode 0b0010111111111110 = .ok (.call 0xFFE) ∧
    decode 0b0011000101000010 = .ok (.seImm 1 0x42) ∧ decode 0b0100111110000001 = .ok (.sneImm 15 0x81) ∧
    decode 0b0101001000110000 = .ok (.seReg 2 3) ∧ decode 0b1001001000110000 = .ok (.sneReg 2 3) ∧
    decode 0b1011001100000001 = .ok (.jpV0 0x301) := by decide

theorem test_decode_alu :
    decode 0b0110101001111111 = .ok (.ldImm 10 0x7F) ∧ decode 0b0111001100000101 = .ok (.addImm 3 5) ∧
    decode 0b1000111011110000 = .ok (.ldReg 14 15) ∧ decode 0b1000000100100001 = .ok (.orReg 1 2) ∧
    decode 0b1000000100100010 = .ok (.andReg 1 2) ∧ decode 0b1000000100100011 = .ok (.xorReg 1 2) ∧
    decode 0b1000111100010100 = .ok (.addReg 15 1) ∧ decode 0b1000000111110101 = .ok (.subReg 1 15) ∧
    decode 0b1000000100100110 = .ok (.shr 1 2) ∧ decode 0b1000000100100111 = .ok (.subnReg 1 2) ∧
    decode 0b1000000100101110 = .ok (.shl 1 2) ∧ decode 0b1100001100001111 = .ok (.rnd 3 0x0F) := by decide

theorem test_decode_index_memory :
    decode 0b1010000100100011 = .ok (.ldI 0x123) ∧ decode 0b1111001000011110 = .ok (.addI 2) ∧
    decode 0b1111000000101001 = .ok (.ldF 0) ∧ decode 0b1111010100110011 = .ok (.ldB 5) ∧
    decode 0b1111111101010101 = .ok (.storeRegs 15) ∧ decode 0b1111001001100101 = .ok (.loadRegs 2) := by decide

theorem test_decode_display : decode 0b1101000000010101 = .ok (.drw 0 1 5) ∧ decode 0b1101111100000001 = .ok (.drw 15 0 1) := by
  decide

theorem test_decode_keypad_timers :
    decode 0b1110000110011110 = .ok (.skp 1) ∧ decode 0b1110000110100001 = .ok (.sknp 1) ∧
    decode 0b1111001100000111 = .ok (.ldVxDT 3) ∧ decode 0b1111001100001010 = .ok (.ldVxK 3) ∧
    decode 0b1111000000010101 = .ok (.ldDTVx 0) ∧ decode 0b1111000000011000 = .ok (.ldSTVx 0) := by decide

/-- Vectors UNK-3, SEV-4, UNK-5, SNEV-4, UNK-6, UNK-8: rejected by name. -/
theorem test_decode_unknown :
    decode 0x0123 = .error (.unknownOpcode 0x0123) ∧ decode 0x5231 = .error (.unknownOpcode 0x5231) ∧
    decode 0x812F = .error (.unknownOpcode 0x812F) ∧ decode 0x923F = .error (.unknownOpcode 0x923F) ∧
    decode 0xE19F = .error (.unknownOpcode 0xE19F) ∧ decode 0xF175 = .error (.unknownOpcode 0xF175) := by decide

theorem test_decode_bytes :
    decodeBytes [0x80, 0x14, 0x60] = .ok (.addReg 0 1, [0x60]) ∧ decodeBytes [0x80] = .error .truncated ∧
    decodeTableWord 16 0x8014 = some (.addReg 0 1) ∧ decodeTableWord 16 0x8018 = none := by decide

theorem test_encode : encode (.drw 0 1 5) = 0xD015 ∧ encodeBytes (.jp 0x200) = [0x12, 0x00] := by decide

/-- 30_encoding.md R82: operands in assembler notation, destination first. -/
theorem test_asm : (Instr.ldReg 14 15).asm = "LD VE,VF" ∧ (Instr.shr 1 2).asm = "SHR V1" := by decide

/-! Effects, one or two vectors an instruction. -/

/-- Vector CLS-1. -/
theorem test_cls : (after ((State.reset.setReg 15 1).setFb (Vector.replicate 32 (Vector.replicate 64 true))) 0x00E0).map
    (fun t => (t.pixel 0 0, t.pixel 31 63, t.reg 15, t.pc)) = some (false, false, 1, 0x0202) := by decide

/-- Vector RET-1. -/
theorem test_ret : (after { State.reset with SP := 1, pc := 0x020C, stack := State.reset.stack.set 0 0x0206 } 0x00EE).map
    (fun t => (t.pc, t.SP, t.stack[0])) = some (0x0206, 0, 0x0206) := by decide

/-- Vector RET-2. -/
theorem test_ret_underflow : (after State.reset 0x00EE).map (fun t => (t.pc, t.fault)) =
    some (0x0202, some { cause := .stackUnderflow, opcode := 0x00EE, pcAtFetch := 0x0200 }) := by decide

/-- Vector JP-3. -/
theorem test_jp : (after State.reset 0x1FFF).map State.pc = some 0x0FFF := by decide

/-- Vector CALL-4. -/
theorem test_call : (after { State.reset with pc := 0x0FFE } 0x2300).map (fun t => (t.pc, t.SP, t.stack[0])) =
    some (0x0300, 1, 0x1000) := by decide

/-- Vector CALL-3. -/
theorem test_call_overflow : (after { State.reset with SP := 16 } 0x2300).map (fun t => (t.pc, t.SP, t.fault)) =
    some (0x0202, 16, some { cause := .stackOverflow, opcode := 0x2300, pcAtFetch := 0x0200 }) := by decide

/-- Vectors SE-1, SE-2. -/
theorem test_seImm : (after (State.reset.setReg 1 0x42) 0x3142).map State.pc = some 0x0204 ∧
    (after (State.reset.setReg 1 0x42) 0x3143).map State.pc = some 0x0202 := by decide

/-- Vectors SNE-1, SNE-2. -/
theorem test_sneImm : (after (State.reset.setReg 1 0x42) 0x4142).map State.pc = some 0x0202 ∧
    (after (State.reset.setReg 1 0x42) 0x4143).map State.pc = some 0x0204 := by decide

/-- Vectors SEV-1, SEV-2. -/
theorem test_seReg : (after (withRegs State.reset [(2, 7), (3, 7)]) 0x5230).map State.pc = some 0x0204 ∧
    (after (withRegs State.reset [(2, 7), (3, 8)]) 0x5230).map State.pc = some 0x0202 := by decide

/-- Vectors SNEV-1, SNEV-2. -/
theorem test_sneReg : (after (withRegs State.reset [(2, 7), (3, 8)]) 0x9230).map State.pc = some 0x0204 ∧
    (after (withRegs State.reset [(2, 7), (3, 7)]) 0x9230).map State.pc = some 0x0202 := by decide

/-- Vector SKIP-EDGE: a skip past the top of memory is legal until the next fetch. -/
theorem test_skip_edge : (after { State.reset with pc := 0x0FFC } 0x3100).map State.pc = some 0x1000 := by decide

/-- Vector JPV-2: not wrapped. -/
theorem test_jpV0 : (after (State.reset.setReg 0 0xFF) 0xBFFF).map State.pc = some 0x10FE := by decide

/-- Vector LDI-1. -/
theorem test_ldImm : (after State.reset 0x6A7F).map (fun t => (t.reg 10, t.pc)) = some (0x7F, 0x0202) := by decide

/-- Vector ADDI-2. -/
theorem test_addImm : (after (withRegs State.reset [(3, 0xFE), (15, 1)]) 0x7305).map (fun t => (t.reg 3, t.reg 15)) =
    some (0x03, 1) := by decide

/-- Vector ADDI-3. -/
theorem test_addImm_vf : (after (State.reset.setReg 15 0xFF) 0x7F02).map (fun t => t.reg 15) = some 1 := by decide

/-- Vector MOV-1. -/
theorem test_ldReg : (after (State.reset.setReg 15 1) 0x8EF0).map (fun t => t.reg 14) = some 1 := by decide

/-- Vectors OR-1, AND-1, XOR-1. -/
theorem test_logic :
    (after (withRegs State.reset [(1, 0x5A), (2, 0x0F), (15, 1)]) 0x8121).map (fun t => (t.reg 1, t.reg 15)) = some (0x5F, 1) ∧
    (after (withRegs State.reset [(1, 0x5A), (2, 0x0F), (15, 1)]) 0x8122).map (fun t => (t.reg 1, t.reg 15)) = some (0x0A, 1) ∧
    (after (withRegs State.reset [(1, 0x5A), (2, 0x0F), (15, 1)]) 0x8123).map (fun t => (t.reg 1, t.reg 15)) = some (0x55, 1) := by
  decide

/-- Vector ADD-1. -/
theorem test_addReg : (after (withRegs State.reset [(1, 0xFF), (2, 1)]) 0x8124).map (fun t => (t.reg 1, t.reg 15)) =
    some (0x00, 1) := by decide

/-- Vector ADD-7: the flag is what remains in VF. -/
theorem test_addReg_vf : (after (withRegs State.reset [(15, 5), (1, 3)]) 0x8F14).map (fun t => t.reg 15) = some 0 := by decide

/-- Vector SUB-2. -/
theorem test_subReg : (after (withRegs State.reset [(1, 3), (2, 5), (15, 1)]) 0x8125).map (fun t => (t.reg 1, t.reg 15)) =
    some (0xFE, 0) := by decide

/-- Vector SUB-3: equal operands give flag 0. -/
theorem test_subReg_equal : (after (withRegs State.reset [(1, 7), (2, 7), (15, 1)]) 0x8125).map
    (fun t => (t.reg 1, t.reg 15)) = some (0, 0) := by decide

/-- Vectors SHR-3, SHR-4: a logical shift that ignores `V[y]`. -/
theorem test_shr : (after (State.reset.setReg 1 0xFF) 0x8106).map (fun t => (t.reg 1, t.reg 15)) = some (0x7F, 1) ∧
    (after (withRegs State.reset [(1, 8), (2, 0xFF)]) 0x8126).map (fun t => (t.reg 1, t.reg 15)) = some (4, 0) := by decide

/-- Vectors SUBN-1, SUBN-2. -/
theorem test_subnReg : (after (withRegs State.reset [(1, 3), (2, 5)]) 0x8127).map (fun t => (t.reg 1, t.reg 15)) = some (2, 1) ∧
    (after (withRegs State.reset [(1, 5), (2, 3), (15, 1)]) 0x8127).map (fun t => (t.reg 1, t.reg 15)) = some (0xFE, 0) := by
  decide

/-- Vectors SHL-1, SHL-5. -/
theorem test_shl : (after (State.reset.setReg 1 0x81) 0x810E).map (fun t => (t.reg 1, t.reg 15)) = some (2, 1) ∧
    (after (State.reset.setReg 15 0x80) 0x8F0E).map (fun t => t.reg 15) = some 1 := by decide

/-- Vector RND-1. -/
theorem test_rnd : (after State.reset 0xC30F [] 0xA7).map (fun t => t.reg 3) = some 0x07 := by decide

/-- Vector LDIX-2. -/
theorem test_ldI : (after (State.reset.setI 0xFFFF) 0xAFFF).map State.I = some 0x0FFF := by decide

/-- Vectors ADDIX-2, ADDIX-3: no fault, a 16-bit wrap, VF not written. -/
theorem test_addI :
    (after ((State.reset.setReg 2 5).setI 0x0FFE) 0xF21E).map (fun t => (t.I, t.reg 15, t.fault)) = some (0x1003, 0, none) ∧
    (after ((State.reset.setReg 2 2).setI 0xFFFF) 0xF21E).map (fun t => (t.I, t.reg 15)) = some (0x0001, 0) := by decide

/-- Vectors FONT-1, FONT-2. -/
theorem test_ldF : (after (State.reset.setReg 0 0x0A) 0xF029).map State.I = some 0x0082 ∧
    (after (State.reset.setReg 0 0x1F) 0xF029).map State.I = some 0x009B := by decide

/-- Vector BCD-6: the last usable `I`. -/
theorem test_ldB : (after ((State.reset.setReg 5 0xC7).setI 0x0FFD) 0xF533).map
    (fun t => (t.byte 0xFFD, t.byte 0xFFE, t.byte 0xFFF, t.I)) = some (1, 9, 9, 0x0FFD) := by decide

/-- Vector BCD-7: no byte written. -/
theorem test_ldB_fault : (after ((State.reset.setReg 5 0xC7).setI 0x0FFE) 0xF533).map
    (fun t => (t.pc, t.byte 0xFFE, t.fault)) =
      some (0x0202, 0, some { cause := .addressOutOfRange, opcode := 0xF533, pcAtFetch := 0x0200 }) := by decide

/-- Vector STO-1. -/
theorem test_storeRegs :
    (after ((withRegs State.reset [(0, 0x11), (1, 0x22), (2, 0x33), (3, 0x44)]).setI 0x0400) 0xF255).map
      (fun t => (t.byte 0x400, t.byte 0x401, t.byte 0x402, t.byte 0x403, t.I)) =
    some (0x11, 0x22, 0x33, 0x00, 0x0400) := by decide

/-- Vector STO-6. -/
theorem test_storeRegs_fault : (after ((State.reset.setReg 0 1).setI 0x1000) 0xF055).map (fun t => t.fault.isSome) =
    some true := by decide

/-- Vector LOD-1. -/
theorem test_loadRegs : (after ((withBytes (State.reset.setReg 3 0x77) 0x300 [1, 2, 3, 4]).setI 0x0300) 0xF265).map
    (fun t => (t.reg 0, t.reg 1, t.reg 2, t.reg 3, t.I)) = some (1, 2, 3, 0x77, 0x0300) := by decide

/-- Vector LOD-4: no register loaded. -/
theorem test_loadRegs_fault :
    (after ((withBytes (withRegs State.reset [(0, 7), (1, 8)]) 0xFFF [0x5A]).setI 0x0FFF) 0xF165).map
      (fun t => (t.reg 0, t.reg 1, t.fault.isSome)) = some (7, 8, true) := by decide

/-- Vector DRW-5: the row wraps within its own screen row. -/
theorem test_drw_wrap :
    (after ((withBytes (withRegs State.reset [(0, 0x3C), (1, 0x0A)]) 0x300 [0xFF]).setI 0x0300) 0xD011).map
      (fun t => (t.pixel 10 63, t.pixel 10 0, t.pixel 10 3, t.pixel 10 4, t.pixel 11 0, t.reg 15)) =
    some (true, true, true, false, false, 0) := by decide

/-- Vector DRW-8: one pixel set, one cleared, collision. -/
theorem test_drw_collision :
    (after ((withBytes State.reset 0x300 [0xC0]).setI 0x0300 |>.setFb (blankScreen.set 0 (blankScreen[0].set 1 true))) 0xD011).map
      (fun t => (t.pixel 0 0, t.pixel 0 1, t.reg 15)) = some (true, false, 1) := by decide

/-- Vectors SKP-3, SKP-4. -/
theorem test_skp : (after (State.reset.setReg 1 0x17) 0xE19E [7]).map State.pc = some 0x0204 ∧
    (after (State.reset.setReg 1 7) 0xE19E [6, 8]).map State.pc = some 0x0202 := by decide

/-- Vectors SKNP-1, SKNP-3. -/
theorem test_sknp : (after (State.reset.setReg 1 7) 0xE1A1).map State.pc = some 0x0204 ∧
    (after (State.reset.setReg 1 0xF0) 0xE1A1 [0]).map State.pc = some 0x0202 := by decide

/-- Vector GDT-1: the value after this tick's decrement. -/
theorem test_ldVxDT : (after (State.reset.setDT 43) 0xF307).map (fun t => (t.reg 3, t.DT)) = some (42, 42) := by decide

/-- Vector SDT-2: the write overwrites the decremented value. -/
theorem test_ldDTVx : (after ((State.reset.setReg 0 10).setDT 200) 0xF015).map State.DT = some 10 := by decide

/-- Vector SST-1. -/
theorem test_ldSTVx : (after (State.reset.setReg 0 3) 0xF018).map (fun t => (t.ST, soundOn t)) = some (3, true) := by decide

/-- Vector KEY-5: waiting, timers running. -/
theorem test_ldVxK_wait : (after ((State.reset.setDT 5).setST 1) 0xF30A).map (fun t => (t.pc, t.DT, t.ST, t.reg 3)) =
    some (0x0200, 4, 0, 0) := by decide

/-- Vector KEY-3: the lowest key wins. -/
theorem test_ldVxK_lowest : (after State.reset 0xF30A [4, 9, 12]).map (fun t => (t.reg 3, t.pc)) = some (4, 0x0202) := by decide

/-- Vector FETCH-3. -/
theorem test_fetch_fault : (match tick { keys := keysDown [2], rnd := 0 } { State.reset with pc := 0x0FFF, DT := 3, ST := 1 } with
    | .next t => some (t.pc, t.DT, t.ST, t.key[2], t.fault)
    | _ => none) = some (0x0FFF, 2, 0, true, some { cause := .addressOutOfRange, opcode := 0, pcAtFetch := 0x0FFF }) := by decide

/-- Vector UNK-1. -/
theorem test_unknown : (after (State.reset.setDT 2) 0x0000).map (fun t => (t.pc, t.DT, t.fault, faultCause t)) =
    some (0x0202, 1, some { cause := .unknownOpcode, opcode := 0, pcAtFetch := 0x0200 }, 1) := by decide

/-- Vector BOOT-2, and a second load refused (70_reset_and_hazards.md R247). -/
theorem test_loadRom : (match loadRom [0x12, 0x00] State.reset with
    | .next t => some (t.byte 0x200, t.byte 0x201, t.pc, match loadRom [0x00] t with | .refused r => some r | _ => none)
    | _ => none) = some (0x12, 0x00, 0x0200, some .loadOutsideBoot) := by decide

/-- Vector BOOT-4: RAM and latch unchanged, `load_err` 4; and a reset clears it. -/
theorem test_loadRom_tooLarge : ∃ t, loadRom (List.replicate 3585 0xAA) State.reset = .next t ∧
    (t.mem, t.fault, loadErr t, faultCause t, loadErr (resetCore t)) = ([], none, 4, 0, 0) :=
  ⟨_, by rw [loadRom, if_pos (by decide), if_neg (by rw [List.length_replicate]; decide)], by decide⟩

/-- Vector BOOT-1, from a halted state. -/
theorem test_reset : (after State.reset 0x00EE).map (fun t => ({ resetCore t with host := HostSide.reset } : State)) =
    some State.reset := by decide

/-- 20_memory.md R60, the default font: the first and the last glyph, at 0x050 and 0x09B. -/
theorem test_font : State.reset.mem.readBytes 0x050 5 = [0xF0, 0x90, 0x90, 0x90, 0xF0] ∧
    State.reset.mem.readBytes 0x09B 6 = [0xF0, 0x80, 0xF0, 0x80, 0x80, 0x00] := by decide

/-! A word of each family placed by `withFetchWord` is what the next step runs. -/

theorem test_step_alu : ∃ t, step (State.reset.withFetchWord 16 0x6A7F) = .next t ∧ t.reg 10 = 0x7F ∧ t.pc = 0x0202 :=
  ⟨_, rfl, by decide⟩
theorem test_step_call : ∃ t, step (State.reset.withFetchWord 16 0x2300) = .next t ∧ t.pc = 0x0300 := ⟨_, rfl, by decide⟩
theorem test_step_store : ∃ t, step (State.reset.withFetchWord 16 0xF055) = .next t ∧ t.fault = none := ⟨_, rfl, by decide⟩

/-! Witnesses: for each obligation with hypotheses, a concrete state and operands that meet them, one for each clause at a
boundary value. -/

/-- A state whose next word is a jump to itself (vector JP-2). -/
def parkedState : State := State.reset.withFetchWord 16 0x1200

/-- A halted state (vector RET-2, after its tick). -/
def haltedState : State := State.reset.raise .stackUnderflow 0x0200

/-- A state waiting at an `Fx0A`, with one tick's input known: no key. -/
def waitingState : State := (State.reset.withFetchWord 16 0xF30A).setHost { HostSide.reset with inputs := [{ keys := noKeys, rnd := 0 }] }

theorem witness_EncodeOfDecode : decode 0x8126 = .ok (.shr 1 2) := by decide
theorem witness_DecoderFollowsOpcodeMap : (⟨0xF00F, 0x800E⟩ : OpcodeRow) ∈ opcodeMap ∧
    (⟨0xF00F, 0x800E⟩ : OpcodeRow).accepts 0x8FFE = true := by decide
theorem witness_OpcodeRowsAreDisjoint : (⟨0xF0FF, 0xF065⟩ : OpcodeRow) ∈ opcodeMap ∧
    (⟨0xF0FF, 0xF065⟩ : OpcodeRow).accepts 0xFF65 = true := by decide
theorem witness_InstructionBytesAreBigEndian : encodeBytes (.call 0x3FE) = [0x23, 0xFE] := by decide
theorem witness_ResetValues_font : State.reset.byte (0x050 + 0) = 0xF0 ∧ State.reset.byte (0x050 + 79) = 0x80 := by decide
theorem witness_ResetValues_zero : State.reset.byte 0x04F = 0 ∧ State.reset.byte 0x0A0 = 0 ∧ State.reset.byte 0xFFF = 0 := by decide
theorem witness_LoadRomCopiesImage_fits : State.reset.host.boot = .afterReset ∧
    (List.replicate 3584 (0xAA : Byte)).length ≤ 3584 := ⟨rfl, by rw [List.length_replicate]⟩
theorem witness_LoadRomCopiesImage_tooLarge : State.reset.host.boot = .afterReset ∧
    3584 < (List.replicate 3585 (0xAA : Byte)).length := ⟨rfl, by rw [List.length_replicate]; decide⟩
theorem witness_LoadRomOnlyBeforeFirstTick :
    (after State.reset 0x1200).map (fun t => t.host.boot) = some .running ∧ State.reset.fault = none ∧
    ∃ t, loadRom [] State.reset = .next t := ⟨by decide, rfl, _, rfl⟩
theorem witness_StepKeepsInvariant : State.reset.Inv ∧ ∃ t, step State.reset = .next t :=
  ⟨⟨by decide, by decide, by decide, by intro r h; cases h⟩, _, rfl⟩
theorem witness_HostMovesKeepInvariant : State.reset.Inv ∧ ∃ t, hostMove (.loadRom [0x12, 0x00]) State.reset = .next t :=
  ⟨witness_StepKeepsInvariant.1, _, rfl⟩
theorem witness_StepRunsDecodedInstruction :
    ({ withBytes State.reset 0xFFE [0x61, 0x77] with pc := 0x0FFE } : State).fault = none ∧
    ({ withBytes State.reset 0xFFE [0x61, 0x77] with pc := 0x0FFE } : State).pc.toNat + 1 < 4096 ∧
    decodeBytes [(withBytes State.reset 0xFFE [0x61, 0x77]).byte 0xFFE, (withBytes State.reset 0xFFE [0x61, 0x77]).byte 0xFFF] =
      .ok (.ldImm 1 0x77, []) := by decide
theorem witness_TickLatchesSnapshot : State.reset.fault = none := rfl
theorem witness_TimersCountDownEachTick_others : State.reset.fault = none ∧ State.reset.fetchInRange = true ∧
    decode State.reset.fetchWord = .error (.unknownOpcode 0) := by decide
theorem witness_TimersCountDownEachTick_writes :
    decode (State.reset.withFetchWord 16 0xF015).fetchWord = .ok (.ldDTVx 0) ∧
    decode (State.reset.withFetchWord 16 0xFF18).fetchWord = .ok (.ldSTVx 15) ∧
    decode (State.reset.withFetchWord 16 0xF307).fetchWord = .ok (.ldVxDT 3) := by decide
theorem witness_FetchOutOfRangeFaults : ({ State.reset with pc := 0x0FFF } : State).fault = none ∧
    0xFFF ≤ ({ State.reset with pc := 0x0FFF } : State).pc.toNat := by decide
theorem witness_UnknownWordRaisesFault : State.reset.fault = none ∧ State.reset.pc.toNat + 1 < 4096 ∧
    ∀ r ∈ opcodeMap, r.accepts (wordOfBytes (State.reset.byte State.reset.pc.toNat)
      (State.reset.byte (State.reset.pc.toNat + 1))) = false := by decide
theorem witness_HaltedTickDoesNothing : haltedState.fault ≠ none := by decide
theorem witness_SafeRunNeverFaulted : SafeRun 1 parkedState ∧ 1 ≤ 1 := ⟨⟨_, rfl, by decide⟩, by decide⟩
theorem witness_FaultingTickIsPrecise_fetch : ∃ t r, step { State.reset with pc := 0x0FFF } = .next t ∧ t.fault = some r :=
  ⟨_, _, rfl, rfl⟩
theorem witness_FaultingTickIsPrecise_handler : ∃ t r, step (State.reset.withFetchWord 16 0x00EE) = .next t ∧ t.fault = some r :=
  ⟨_, _, rfl, rfl⟩
theorem witness_StoredBytesAreFetchedNext : (1 : RegIdx).val = (0 : RegIdx).val + 1 ∧ (1 : RegIdx) ≤ 1 ∧
    (State.reset.setI 0x0200).I.toNat + (1 : RegIdx).val < 4096 ∧
    (State.reset.setI 0x0200).I.toNat + (0 : RegIdx).val = State.reset.pc.toNat := by decide
theorem witness_SkipsOnKeys : (7 : Fin 16).val = ((State.reset.setReg 1 0xF7).reg 1).toNat % 16 := by decide
theorem witness_CallPushesReturnAddress : ({ State.reset with SP := 15 } : State).SP.val < 16 ∧
    ({ State.reset with SP := 16 } : State).SP.val = 16 := by decide
theorem witness_RetPopsReturnAddress : ({ State.reset with SP := 16 } : State).SP.val = (15 : Fin 16).val + 1 ∧
    ({ State.reset with SP := 1 } : State).SP.val = (0 : Fin 16).val + 1 ∧ State.reset.SP.val = 0 := by decide
theorem witness_CallThenRetReturns : ({ State.reset with SP := 15 } : State).SP.val < 16 := by decide
theorem witness_OnlyCallAndRetUseTheStack :
    (handled (.call 0x300) State.reset).map (fun t => (t.stack == State.reset.stack, t.SP == State.reset.SP)) =
      some (false, false) := by decide
theorem witness_FlagProducers : (0 : RegIdx) ≠ 15 ∧ (14 : RegIdx) ≠ 15 := by decide
theorem witness_OnlyRndReadsTheRandomByte : (∀ x kk, Instr.cls ≠ .rnd x kk) ∧ ∃ t, exec .cls State.reset = .next t :=
  ⟨fun _ _ => nofun, _, rfl⟩
theorem witness_OnlyKeyInstructionsReadTheKeypad :
    (∀ x, Instr.cls ≠ .skp x ∧ Instr.cls ≠ .sknp x ∧ Instr.cls ≠ .ldVxK x) ∧ ∃ t, exec .cls State.reset = .next t :=
  ⟨fun _ => ⟨nofun, nofun, nofun⟩, _, rfl⟩
theorem witness_OnlyTheseInstructionsWriteVF :
    (handled (.addReg 1 2) (withRegs State.reset [(1, 0xFF), (2, 1)])).map (fun t => t.reg 15 == State.reset.reg 15) = some false := by
  decide
theorem witness_BcdStoresDigits : (State.reset.setI 0x0FFD).I.toNat + 2 < 4096 := by decide
theorem witness_StoreRegistersInMemory : (State.reset.setI 0x0FF0).I.toNat + (15 : RegIdx).val < 4096 := by decide
theorem witness_LoadRegistersFromMemory : (State.reset.setI 0x0FFF).I.toNat + (0 : RegIdx).val < 4096 := by decide
theorem witness_BcdThenLoadRecoversDigits : (State.reset.setI 0x0300).I.toNat + 2 < 4096 := by decide
theorem witness_StoreThenLoadRestoresRegisters : (State.reset.setI 0x0FF0).I.toNat + (15 : RegIdx).val < 4096 := by decide
theorem witness_OnlyStoresWriteMemory :
    (handled (.storeRegs 15) ((State.reset.setReg 15 0xAF).setI 0x0FF0)).map (fun t => t.byte 0xFFF) = some 0xAF ∧
    (handled (.ldB 15) ((State.reset.setReg 15 0xAF).setI 0x0FFD)).map (fun t => t.byte 0xFFD) = some 1 := by decide
theorem witness_EachStateHasItsWriters :
    (handled (.ldI 0x123) State.reset).map State.I = some 0x0123 ∧
    (handled (.ldDTVx 0) (State.reset.setReg 0 1)).map State.DT = some 1 ∧
    (handled (.ldSTVx 0) (State.reset.setReg 0 1)).map State.ST = some 1 ∧
    (handled (.drw 0 0 1) (State.reset.setI 0x0050)).map (fun t => t.pixel 0 0) = some true := by decide
theorem witness_DataAccessOutOfRangeFaults :
    4096 ≤ (State.reset.setI 0x0FFE).I.toNat + 2 ∧ 4096 ≤ (State.reset.setI 0x0FF1).I.toNat + (15 : RegIdx).val ∧
    0 < (2 : Fin 16).val ∧ 4096 ≤ (State.reset.setI 0x0FFF).I.toNat + ((2 : Fin 16).val - 1) := by decide
theorem witness_OnlyTheseHandlersFault :
    (handled .ret State.reset).map (fun t => t.fault.isSome) = some true ∧
    (handled (.call 0) { State.reset with SP := 16 }).map (fun t => t.fault.isSome) = some true ∧
    (handled (.ldB 0) (State.reset.setI 0x0FFE)).map (fun t => t.fault.isSome) = some true ∧
    (handled (.storeRegs 15) (State.reset.setI 0x0FF1)).map (fun t => t.fault.isSome) = some true ∧
    (handled (.loadRegs 1) (State.reset.setI 0x0FFF)).map (fun t => t.fault.isSome) = some true ∧
    (handled (.drw 0 0 2) (State.reset.setI 0x0FFF)).map (fun t => t.fault.isSome) = some true := by decide
theorem witness_DrwDrawsTheSprite : (0 : Fin 16).val = 0 ∧ (State.reset.setI 0x0FF1).I.toNat + ((15 : Fin 16).val - 1) < 4096 := by
  decide
theorem witness_DrwTwiceRestoresTheScreen :
    ((State.reset.setI 0x0050).I.toNat + ((5 : Fin 16).val - 1) < 4096) ∧
    (handled (.drw 15 0 5) (State.reset.setI 0x0050)).map (fun t => t.reg 15) = some (State.reset.reg 15) := by decide
theorem witness_KeyWaitTakesLowestKey :
    (State.reset.setKeys (keysDown [15])).key[15] = true ∧
    (∀ j : Fin 16, j < 15 → (State.reset.setKeys (keysDown [15])).key[j] = false) ∧ ∀ k : Fin 16, State.reset.key[k] = false := by
  decide
theorem witness_KeyWaitRepeatsWhileNoKey :
    waitingState.fault = none ∧ waitingState.fetchInRange = true ∧ decode waitingState.fetchWord = .ok (.ldVxK 3) ∧
    waitingState.host.inputs = [{ keys := noKeys, rnd := 0 }] ++ [] ∧
    ∀ inp ∈ [({ keys := noKeys, rnd := 0 } : TickInput)], inp.keys = noKeys := by decide
theorem witness_ParkedStaysParked : parkedState.parked = true := by decide
theorem witness_OutputPorts : haltedState.fault = some { cause := .stackUnderflow, opcode := 0, pcAtFetch := 0x0200 } := by decide

end Sys2Proof.Tests
end

section
/-! PROOFS. Encoding (30_encoding.md): the opcode map's rows test a word nibble by nibble, and the decoder selects by the
same nibbles (R74, R75). -/

namespace Sys2Proof

section Nibbles
variable (w v : Word)

theorem word_eq_iff_nibbles :
    w = v ↔ nib3 w = nib3 v ∧ nib2 w = nib2 v ∧ nib1 w = nib1 v ∧ nib0 w = nib0 v := by
  constructor
  · rintro rfl; exact ⟨rfl, rfl, rfl, rfl⟩
  · simp only [← BitVec.toNat_inj, toNat_nib3, toNat_nib2, toNat_nib1, toNat_nib0]
    omega

theorem fieldKK_eq_iff_nibbles : fieldKK w = fieldKK v ↔ nib1 w = nib1 v ∧ nib0 w = nib0 v := by
  simp only [← BitVec.toNat_inj, toNat_fieldKK, toNat_nib1, toNat_nib0]
  omega

theorem nib3_and : nib3 (w &&& v) = nib3 w &&& nib3 v := BitVec.extractLsb'_and
theorem nib2_and : nib2 (w &&& v) = nib2 w &&& nib2 v := BitVec.extractLsb'_and
theorem nib1_and : nib1 (w &&& v) = nib1 w &&& nib1 v := BitVec.extractLsb'_and
theorem nib0_and : nib0 (w &&& v) = nib0 w &&& nib0 v := BitVec.extractLsb'_and

/-- A row's test goes nibble by nibble (R75, with the nibbles of R6). -/
theorem OpcodeRow.accepts_iff_nibbles (r : OpcodeRow) :
    r.accepts w = true ↔ nib3 w &&& nib3 r.mask = nib3 r.value ∧ nib2 w &&& nib2 r.mask = nib2 r.value ∧
      nib1 w &&& nib1 r.mask = nib1 r.value ∧ nib0 w &&& nib0 r.mask = nib0 r.value := by
  rw [OpcodeRow.accepts, beq_iff_eq, word_eq_iff_nibbles, nib3_and, nib2_and, nib1_and, nib0_and]

/-- A nibble under a mask's nibble 0xF is kept whole. -/
theorem nibble_and_ones (a : BitVec 4) : a &&& 0xF = a := BitVec.and_allOnes

/-- A nibble under a mask's nibble 0 matches only a zero nibble of the row's value. -/
theorem nibble_and_zero_eq_iff (a b : BitVec 4) : a &&& 0 = b ↔ b = 0 := by
  rw [show a &&& 0 = 0 from BitVec.and_zero, eq_comm]

/-- The test of a row whose mask is `nib3` alone (formats A, XK and XYN with operand `n`, R71). -/
theorem accepts_mask_nib3 : (⟨0xF000, v⟩ : OpcodeRow).accepts w = true ↔
    nib3 w = nib3 v ∧ nib2 v = 0 ∧ nib1 v = 0 ∧ nib0 v = 0 := by
  have h3 : nib3 0xF000 = 0xF := rfl
  have h2 : nib2 0xF000 = 0 := rfl
  have h1 : nib1 0xF000 = 0 := rfl
  have h0 : nib0 0xF000 = 0 := rfl
  simp only [OpcodeRow.accepts_iff_nibbles, h3, h2, h1, h0, nibble_and_ones, nibble_and_zero_eq_iff]

/-- The test of a row whose mask is `nib3` and `nib0` (format XY, R71). -/
theorem accepts_mask_nib3_nib0 : (⟨0xF00F, v⟩ : OpcodeRow).accepts w = true ↔
    nib3 w = nib3 v ∧ nib2 v = 0 ∧ nib1 v = 0 ∧ nib0 w = nib0 v := by
  have h3 : nib3 0xF00F = 0xF := rfl
  have h2 : nib2 0xF00F = 0 := rfl
  have h1 : nib1 0xF00F = 0 := rfl
  have h0 : nib0 0xF00F = 0xF := rfl
  simp only [OpcodeRow.accepts_iff_nibbles, h3, h2, h1, h0, nibble_and_ones, nibble_and_zero_eq_iff]

/-- The test of a row whose mask is `nib3` and the low byte (format X, R71). -/
theorem accepts_mask_nib3_fieldKK : (⟨0xF0FF, v⟩ : OpcodeRow).accepts w = true ↔
    nib3 w = nib3 v ∧ nib2 v = 0 ∧ fieldKK w = fieldKK v := by
  have h3 : nib3 0xF0FF = 0xF := rfl
  have h2 : nib2 0xF0FF = 0 := rfl
  have h1 : nib1 0xF0FF = 0xF := rfl
  have h0 : nib0 0xF0FF = 0xF := rfl
  simp only [OpcodeRow.accepts_iff_nibbles, h3, h2, h1, h0, nibble_and_ones, nibble_and_zero_eq_iff,
    fieldKK_eq_iff_nibbles]

/-- The test of a row whose mask is the whole word. -/
theorem accepts_mask_word : (⟨0xFFFF, v⟩ : OpcodeRow).accepts w = true ↔ w = v := by
  rw [OpcodeRow.accepts, beq_iff_eq]
  exact iff_of_eq (congrArg (· = v) BitVec.and_allOnes)

end Nibbles

section Rows

variable {w : Word} {i : Instr}

/-- Every instruction term is well-formed: the check that names the map's rows accepts each constructor. -/
theorem Instr.wellFormed_eq_true (i : Instr) : i.wellFormed = true := by
  cases i <;> rfl

theorem Instr.row_mem_opcodeMap (i : Instr) : i.row ∈ opcodeMap :=
  List.contains_iff_mem.1 i.wellFormed_eq_true

/-- Each row of the map is some instruction's: the row's own value, read as a word, decodes to one. -/
theorem exists_row_eq_of_mem_opcodeMap {r : OpcodeRow} (hr : r ∈ opcodeMap) : ∃ i : Instr, i.row = r := by
  have hdec : ∀ r ∈ opcodeMap, (decode r.value).toOption.map Instr.row = some r := by decide
  obtain ⟨i, -, hi⟩ := Option.map_eq_some_iff.1 (hdec r hr)
  exact ⟨i, hi⟩

/-- An instruction under `requireNib0Zero` is answered exactly when the nibble is 0. -/
theorem requireNib0Zero_eq_ok_iff {j : Instr} : requireNib0Zero w i = .ok j ↔ nib0 w = 0 ∧ i = j := by
  unfold requireNib0Zero
  split
  case isTrue h => exact ⟨fun hij => ⟨h, Except.ok.inj hij⟩, fun ⟨_, hij⟩ => congrArg _ hij⟩
  case isFalse h => exact ⟨nofun, fun ⟨h0, _⟩ => absurd h0 h⟩

theorem decode_of_nib3_eq_8 (h : nib3 w = 0x8) : decode w = decodeGroup8 w := by rw [decode, h]; rfl

theorem decode_of_nib3_eq_E (h : nib3 w = 0xE) : decode w = decodeGroupE w := by rw [decode, h]; rfl

theorem decode_of_nib3_eq_F (h : nib3 w = 0xF) : decode w = decodeGroupF w := by rw [decode, h]; rfl

theorem row_accepts_of_decodeGroup0 (h : decodeGroup0 w = .ok i) : i.row.accepts w = true := by
  unfold decodeGroup0 at h
  split at h <;> cases h
  all_goals exact (accepts_mask_word w _).2 (BitVec.eq_of_toNat_eq ‹_›)

theorem row_accepts_of_decodeGroup8 (h3 : (nib3 w).toNat = 0x8) (h : decodeGroup8 w = .ok i) :
    i.row.accepts w = true := by
  unfold decodeGroup8 at h
  split at h <;> cases h
  all_goals exact (accepts_mask_nib3_nib0 w _).2 ⟨BitVec.eq_of_toNat_eq h3, rfl, rfl, BitVec.eq_of_toNat_eq ‹_›⟩

theorem row_accepts_of_decodeGroupE (h3 : (nib3 w).toNat = 0xE) (h : decodeGroupE w = .ok i) :
    i.row.accepts w = true := by
  unfold decodeGroupE at h
  split at h <;> cases h
  all_goals exact (accepts_mask_nib3_fieldKK w _).2 ⟨BitVec.eq_of_toNat_eq h3, rfl, BitVec.eq_of_toNat_eq ‹_›⟩

theorem row_accepts_of_decodeGroupF (h3 : (nib3 w).toNat = 0xF) (h : decodeGroupF w = .ok i) :
    i.row.accepts w = true := by
  unfold decodeGroupF at h
  split at h <;> cases h
  all_goals exact (accepts_mask_nib3_fieldKK w _).2 ⟨BitVec.eq_of_toNat_eq h3, rfl, BitVec.eq_of_toNat_eq ‹_›⟩

/-- A decoded word passes its instruction's row. The arms of `decode` are numbered from 1, so `h_1` is the arm of
`nib3 = 0` and `h_16` that of `nib3 = F`; `h_17` answers an error. -/
theorem row_accepts_of_decode (h : decode w = .ok i) : i.row.accepts w = true := by
  unfold decode at h
  split at h
  case h_1 => exact row_accepts_of_decodeGroup0 h
  case h_6 h3 | h_10 h3 =>
    obtain ⟨h0, rfl⟩ := requireNib0Zero_eq_ok_iff.1 h
    exact (accepts_mask_nib3_nib0 w _).2 ⟨BitVec.eq_of_toNat_eq h3, rfl, rfl, h0⟩
  case h_9 h3 => exact row_accepts_of_decodeGroup8 h3 h
  case h_15 h3 => exact row_accepts_of_decodeGroupE h3 h
  case h_16 h3 => exact row_accepts_of_decodeGroupF h3 h
  case h_17 => cases h
  all_goals
    cases h
    exact (accepts_mask_nib3 w _).2 ⟨BitVec.eq_of_toNat_eq ‹_›, rfl, rfl, rfl⟩

/-- A word that passes an instruction's row decodes to an instruction of that row, by the rows' four masks. -/
theorem decode_of_row_accepts (h : i.row.accepts w = true) : ∃ j, decode w = .ok j ∧ j.row = i.row := by
  cases i with
  | cls | ret =>
    obtain rfl := (accepts_mask_word w _).1 h
    exact ⟨_, rfl, rfl⟩
  | jp | call | seImm | sneImm | ldImm | addImm | ldI | jpV0 | rnd | drw =>
    obtain ⟨h3, -⟩ := (accepts_mask_nib3 w _).1 h
    rw [decode, h3]
    exact ⟨_, rfl, rfl⟩
  | seReg | sneReg =>
    obtain ⟨h3, -, -, h0⟩ := (accepts_mask_nib3_nib0 w _).1 h
    rw [decode, h3]
    exact ⟨_, requireNib0Zero_eq_ok_iff.2 ⟨h0, rfl⟩, rfl⟩
  | ldReg | orReg | andReg | xorReg | addReg | subReg | shr | subnReg | shl =>
    obtain ⟨h3, -, -, h0⟩ := (accepts_mask_nib3_nib0 w _).1 h
    rw [decode_of_nib3_eq_8 h3, decodeGroup8, h0]
    exact ⟨_, rfl, rfl⟩
  | skp | sknp =>
    obtain ⟨h3, -, hkk⟩ := (accepts_mask_nib3_fieldKK w _).1 h
    rw [decode_of_nib3_eq_E h3, decodeGroupE, hkk]
    exact ⟨_, rfl, rfl⟩
  | ldVxDT | ldVxK | ldDTVx | ldSTVx | addI | ldF | ldB | storeRegs | loadRegs =>
    obtain ⟨h3, -, hkk⟩ := (accepts_mask_nib3_fieldKK w _).1 h
    rw [decode_of_nib3_eq_F h3, decodeGroupF, hkk]
    exact ⟨_, rfl, rfl⟩

end Rows

/-- Settles O3: a row of the map is an instruction's row, whose test and whose arm of the decoder read the same nibbles. -/
theorem decoderFollowsOpcodeMap : Obligations.DecoderFollowsOpcodeMap := by
  refine ⟨rfl, Instr.row_mem_opcodeMap, fun r hr w => ⟨fun h => ?_, ?_⟩⟩
  · obtain ⟨i, rfl⟩ := exists_row_eq_of_mem_opcodeMap hr
    exact decode_of_row_accepts h
  · rintro ⟨i, hi, rfl⟩
    exact row_accepts_of_decode hi

end Sys2Proof
end

section
/-! PROOFS. The tick (40_tick_fetch_dispatch.md): what one handler may do to the state, said once for all 34, and from it
the keypad latch and the timers after every tick (R91, R92). -/

namespace Sys2Proof.Machine

section Handlers

/-- The updates a handler may answer with. An update that a single instruction makes names that instruction; the
others (a register, a flag, a skip, a jump, a fault) are shared, and their values are left open. -/
inductive HandlerUpdate (s : State) : Instr → State → Prop where
  | register {i : Instr} (x : RegIdx) (b : Byte) : HandlerUpdate s i (s.setReg x b)
  | resultFlag {i : Instr} (x : RegIdx) (b : Byte) (f : Bool) : HandlerUpdate s i (s.setResultFlag x b f)
  | skip {i : Instr} (c : Bool) : HandlerUpdate s i (s.skipIf c)
  | jump {i : Instr} (w : Word) : HandlerUpdate s i (s.setPc w)
  | fault {i : Instr} (c : FaultCause) : HandlerUpdate s i (s.raiseInHandler c)
  | push (nnn : Imm12) (h : s.SP.val < 16) : HandlerUpdate s (.call nnn) ((s.pushPc h).setPc (nnn.zeroExtend 16))
  | pop (h : 0 < s.SP.val) : HandlerUpdate s .ret (s.popPc h)
  | clearScreen : HandlerUpdate s .cls (s.setFb blankScreen)
  | draw (x y : RegIdx) (n : Fin 16) : HandlerUpdate s (.drw x y n)
      ((s.setFb (s.drawn x y n.val).fb).setReg Config.flagReg (flagByte (s.drawn x y n.val).hit))
  | loadIndex (nnn : Imm12) : HandlerUpdate s (.ldI nnn) (s.setI (nnn.zeroExtend 16))
  | addIndex (x : RegIdx) : HandlerUpdate s (.addI x) (s.setI (s.I + (s.reg x).zeroExtend 16))
  | glyphIndex (x : RegIdx) : HandlerUpdate s (.ldF x) (s.setI (glyphAddr (s.reg x)))
  | storeDigits (x : RegIdx) : HandlerUpdate s (.ldB x) (s.storeData (bcdDigits (s.reg x)))
  | storeRegisters (x : RegIdx) : HandlerUpdate s (.storeRegs x) (s.storeData (s.regsUpTo x))
  | loadRegisters (x : RegIdx) : HandlerUpdate s (.loadRegs x) (s.setRegsFrom 0 (s.dataBytes (x.val + 1)))
  | delayTimer (x : RegIdx) : HandlerUpdate s (.ldDTVx x) (s.setDT (s.reg x))
  | soundTimer (x : RegIdx) : HandlerUpdate s (.ldSTVx x) (s.setST (s.reg x))

/-- Every handler answers a next state, by one of the updates (R98). Only the instructions with a check, and `Fx0A`,
have two answers. -/
theorem exec_update (i : Instr) (s : State) : ∃ t, exec i s = .next t ∧ HandlerUpdate s i t := by
  cases i with
  | ldImm | addImm | ldReg | orReg | andReg | xorReg | rnd | ldVxDT => exact ⟨_, rfl, .register _ _⟩
  | addReg | subReg | shr | subnReg | shl => exact ⟨_, rfl, .resultFlag _ _ _⟩
  | seImm | sneImm | seReg | sneReg | skp | sknp => exact ⟨_, rfl, .skip _⟩
  | jp | jpV0 => exact ⟨_, rfl, .jump _⟩
  | cls => exact ⟨_, rfl, .clearScreen⟩
  | ldI nnn => exact ⟨_, rfl, .loadIndex nnn⟩
  | addI x => exact ⟨_, rfl, .addIndex x⟩
  | ldF x => exact ⟨_, rfl, .glyphIndex x⟩
  | ldDTVx x => exact ⟨_, rfl, .delayTimer x⟩
  | ldSTVx x => exact ⟨_, rfl, .soundTimer x⟩
  | ldVxK x =>
    cases h : s.firstKey with
    | none => exact ⟨_, execLdVxK_waits s x h, .jump _⟩
    | some k => exact ⟨_, execLdVxK_found s x h, .register _ _⟩
  | ret =>
    rcases Nat.eq_zero_or_pos s.SP.val with h | h
    · exact ⟨_, execRet_underflows s h, .fault _⟩
    · exact ⟨_, execRet_pops s h, .pop h⟩
  | call nnn =>
    by_cases h : s.SP.val < 16
    · exact ⟨_, execCall_pushes s nnn h, .push nnn h⟩
    · exact ⟨_, execCall_overflows s nnn (by omega), .fault _⟩
  | drw x y n =>
    cases h : s.dataInRange n.val with
    | false => exact ⟨_, execDrw_faults s x y n h, .fault _⟩
    | true => exact ⟨_, execDrw_draws s x y n h, .draw x y n⟩
  | ldB x =>
    cases h : s.dataInRange 3 with
    | false => exact ⟨_, execLdB_faults s x h, .fault _⟩
    | true => exact ⟨_, execLdB_stores s x h, .storeDigits x⟩
  | storeRegs x =>
    cases h : s.dataInRange (x.val + 1) with
    | false => exact ⟨_, execStoreRegs_faults s x h, .fault _⟩
    | true => exact ⟨_, execStoreRegs_stores s x h, .storeRegisters x⟩
  | loadRegs x =>
    cases h : s.dataInRange (x.val + 1) with
    | false => exact ⟨_, execLoadRegs_faults s x h, .fault _⟩
    | true => exact ⟨_, execLoadRegs_loads s x h, .loadRegisters x⟩

variable {s t : State} {i : Instr}

/-- No handler writes the latches or the host's side (10_state.md R30, R31). -/
theorem HandlerUpdate.keepsLatches (h : HandlerUpdate s i t) : KeepsLatches s t := by
  unfold KeepsLatches
  cases h <;> simp

/-- Only `Fx15` writes the delay timer (10_state.md R29). -/
theorem HandlerUpdate.DT_eq (h : HandlerUpdate s i t) (hi : ∀ x, i ≠ .ldDTVx x) : t.DT = s.DT := by
  cases h
  case delayTimer x => exact absurd rfl (hi x)
  all_goals simp

/-- Only `Fx18` writes the sound timer (10_state.md R29). -/
theorem HandlerUpdate.ST_eq (h : HandlerUpdate s i t) (hi : ∀ x, i ≠ .ldSTVx x) : t.ST = s.ST := by
  cases h
  case soundTimer x => exact absurd rfl (hi x)
  all_goals simp

end Handlers

section Tick
variable {inp : TickInput} {s : State}

/-- A tick that runs no handler, because its `pc` is out of range or its word is unknown, still ends with the
snapshot latched and the timers counted down; every other tick of a core that is not halted runs its word's handler. -/
theorem tick_faults_or_runs_handler (h : s.fault = none) :
    (∃ t, tick inp s = .next t ∧ t.key = inp.keys ∧ t.DT = countDown s.DT ∧ t.ST = countDown s.ST ∧
      ∀ i, s.fetchInRange = true → decode s.fetchWord ≠ .ok i) ∨
    (∃ i, decode s.fetchWord = .ok i ∧ s.fetchInRange = true ∧ tick inp s = exec i (s.beginTick inp).fetched) := by
  rcases tick_cases inp s with ⟨hf, -⟩ | ⟨-, hr, ht⟩ | ⟨e, -, -, hd, ht⟩ | ⟨i, -, hr, hd, ht⟩
  · exact absurd h hf
  · exact .inl ⟨_, ht, rfl, rfl, rfl, fun i hr' => by simp [hr] at hr'⟩
  · exact .inl ⟨_, ht, rfl, rfl, rfl, fun i _ hd' => by simp [hd] at hd'⟩
  · exact .inr ⟨i, hd, hr, ht⟩

end Tick

/-- Settles O16: the snapshot is latched before the fetch, and neither a fault nor a handler writes the latch again. -/
theorem tickLatchesSnapshot : Obligations.TickLatchesSnapshot := by
  intro inp s h
  obtain ⟨t, ht, hkey, -⟩ | ⟨i, -, -, ht⟩ := tick_faults_or_runs_handler (inp := inp) h
  · exact ⟨t, ht, fun k => by rw [hkey]⟩
  · obtain ⟨t, hexec, hu⟩ := exec_update i (s.beginTick inp).fetched
    obtain ⟨-, hkey, -⟩ := hu.keepsLatches
    exact ⟨t, ht.trans hexec, fun k => by rw [hkey, State.fetched_key, State.beginTick_key]⟩

/-- Settles O17: the timers count down before the fetch, so a handler finds them counted down, and the two timer loads
are the only handlers that write one. -/
theorem timersCountDownEachTick : Obligations.TimersCountDownEachTick := by
  intro inp s h
  obtain ⟨t, ht, -, hDT, hST, hno⟩ | ⟨i, hd, hr, ht⟩ := tick_faults_or_runs_handler (inp := inp) h
  · refine ⟨t, ht, fun _ => ?_, fun _ => ?_, ?_, ?_, ?_⟩
    · rw [hDT, countDown_toNat]
    · rw [hST, countDown_toNat]
    all_goals exact fun x hr hd => absurd hd (hno _ hr)
  · obtain ⟨t, hexec, hu⟩ := exec_update i (s.beginTick inp).fetched
    have same_instr : ∀ {j}, decode s.fetchWord = .ok j → i = j := fun hj => Except.ok.inj (hd.symm.trans hj)
    refine ⟨t, ht.trans hexec, fun hi => ?_, fun hi => ?_, fun x _ hx => ?_, fun x _ hx => ?_, fun x _ hx => ?_⟩
    · rw [hu.DT_eq (by rintro x rfl; exact hi x ⟨hr, hd⟩), State.fetched_DT, State.beginTick_DT, countDown_toNat]
    · rw [hu.ST_eq (by rintro x rfl; exact hi x ⟨hr, hd⟩), State.fetched_ST, State.beginTick_ST, countDown_toNat]
    all_goals
      obtain rfl := same_instr hx
      cases hexec
    · rw [State.setDT_DT, State.reg_fetched, State.reg_beginTick]
    · rw [State.setST_ST, State.reg_fetched, State.reg_beginTick]
    · rw [State.reg_setReg, if_pos rfl, State.fetched_DT, State.beginTick_DT, countDown_toNat]

end Sys2Proof.Machine
end

section
/-! PROOFS. Control flow (41_control_flow.md): the words of the skips and jumps decode to their instructions, and a
skip or a jump writes `pc` alone (R110, R112, R114 to R118). -/

namespace Sys2Proof

section Decoding
variable {w : Word}

theorem decode_of_nib3_eq_1 (h : nib3 w = 0x1) : decode w = .ok (.jp (fieldNNN w)) := by rw [decode, h]; rfl

theorem decode_of_nib3_eq_3 (h : nib3 w = 0x3) : decode w = .ok (.seImm (fieldX w) (fieldKK w)) := by
  rw [decode, h]; rfl

theorem decode_of_nib3_eq_4 (h : nib3 w = 0x4) : decode w = .ok (.sneImm (fieldX w) (fieldKK w)) := by
  rw [decode, h]; rfl

theorem decode_of_nib3_eq_5 (h : nib3 w = 0x5) :
    decode w = requireNib0Zero w (.seReg (fieldX w) (fieldY w)) := by rw [decode, h]; rfl

theorem decode_of_nib3_eq_9 (h : nib3 w = 0x9) :
    decode w = requireNib0Zero w (.sneReg (fieldX w) (fieldY w)) := by rw [decode, h]; rfl

theorem decode_of_nib3_eq_B (h : nib3 w = 0xB) : decode w = .ok (.jpV0 (fieldNNN w)) := by rw [decode, h]; rfl

/-- What `requireNib0Zero` answers on a word of format XY or XYN: its last nibble alone decides (R74). -/
theorem requireNib0Zero_packXYN (a n : BitVec 4) (x y : RegIdx) (i : Instr) :
    requireNib0Zero (packXYN a x y n) i = if n = 0 then .ok i else .error (.unknownOpcode (packXYN a x y n)) := by
  rw [requireNib0Zero, nib0_packXYN]

variable (x y : RegIdx) (kk : Byte) (nnn : Imm12) (n : BitVec 4)

theorem decode_packA_jp : decode (packA 0x1 nnn) = .ok (.jp nnn) := by
  rw [decode_of_nib3_eq_1 (nib3_packA _ _), fieldNNN_packA]

theorem decode_packA_jpV0 : decode (packA 0xB nnn) = .ok (.jpV0 nnn) := by
  rw [decode_of_nib3_eq_B (nib3_packA _ _), fieldNNN_packA]

theorem decode_packXK_seImm : decode (packXK 0x3 x kk) = .ok (.seImm x kk) := by
  rw [decode_of_nib3_eq_3 (nib3_packXK _ _ _), fieldX_packXK, fieldKK_packXK]

theorem decode_packXK_sneImm : decode (packXK 0x4 x kk) = .ok (.sneImm x kk) := by
  rw [decode_of_nib3_eq_4 (nib3_packXK _ _ _), fieldX_packXK, fieldKK_packXK]

theorem decode_packXYN_seReg : decode (packXYN 0x5 x y n) =
    if n = 0 then .ok (.seReg x y) else .error (.unknownOpcode (packXYN 0x5 x y n)) := by
  rw [decode_of_nib3_eq_5 (nib3_packXYN _ _ _ _), requireNib0Zero_packXYN, fieldX_packXYN, fieldY_packXYN]

theorem decode_packXYN_sneReg : decode (packXYN 0x9 x y n) =
    if n = 0 then .ok (.sneReg x y) else .error (.unknownOpcode (packXYN 0x9 x y n)) := by
  rw [decode_of_nib3_eq_9 (nib3_packXYN _ _ _ _), requireNib0Zero_packXYN, fieldX_packXYN, fieldY_packXYN]

end Decoding

end Sys2Proof

namespace Sys2Proof.Machine

section Pc
variable {s : State} {o : Host.Outcome State Fault Refusal}

/-- A jump writes `pc` alone (R110). -/
theorem State.onlyPc_setPc (s : State) (w : Word) : OnlyPc s (s.setPc w) :=
  ⟨fun r _ => State.reg_setPc s w r, rfl, ⟨rfl, fun _ => rfl⟩, ⟨rfl, rfl⟩, fun _ _ => rfl, fun _ => rfl,
    ⟨rfl, rfl, rfl⟩, rfl⟩

/-- A skip is a jump, over the next instruction or to it. -/
theorem State.skipIf_eq_setPc (s : State) (c : Bool) : s.skipIf c = s.setPc (if c then s.pc + 2 else s.pc) := by
  cases c <;> rfl

theorem State.onlyPc_skipIf (s : State) (c : Bool) : OnlyPc s (s.skipIf c) := by
  rw [State.skipIf_eq_setPc]
  exact State.onlyPc_setPc s _

/-- The last address a fetch can read is 0xFFE (R94). -/
theorem State.fetchInRange_setPc (s : State) (w : Word) : (s.setPc w).fetchInRange = true ↔ w.toNat ≤ 0xFFE := by
  rw [State.fetchInRange_iff, State.setPc_pc]
  omega

/-- The effect shared by all skips: a handler that skips on `c` skips exactly when what `c` decides holds. -/
theorem skip_effect {c : Bool} {p : Prop} [Decidable p] (ho : o = .next (s.skipIf c)) (hc : c = true ↔ p) :
    ∃ t, o = .next t ∧ t.pc = (if p then s.pc + 2 else s.pc) ∧ OnlyPc s t :=
  ⟨s.skipIf c, ho, by simp only [State.skipIf_pc, hc], State.onlyPc_skipIf s c⟩

/-- The effect shared by both jumps, with the target as a natural number. -/
theorem jump_effect {w : Word} {n : Nat} (ho : o = .next (s.setPc w)) (hw : w.toNat = n) :
    ∃ t, o = .next t ∧ t.pc.toNat = n ∧ (t.fetchInRange = true ↔ n ≤ 0xFFE) ∧ OnlyPc s t := by
  subst hw
  exact ⟨s.setPc w, ho, rfl, State.fetchInRange_setPc s w, State.onlyPc_setPc s w⟩

end Pc

section Targets
variable (nnn : Imm12)

theorem toNat_jpTarget : (nnn.zeroExtend 16 : Word).toNat = nnn.toNat :=
  BitVec.toNat_setWidth_of_le (by decide)

/-- `Bnnn`'s sum is at most 0x10FE, so it does not wrap in 16 bits (R118). -/
theorem toNat_jpV0Target (v : Byte) :
    (v.zeroExtend 16 + nnn.zeroExtend 16 : Word).toNat = v.toNat + nnn.toNat := by
  have hv : (v.zeroExtend 16 : Word).toNat = v.toNat := BitVec.toNat_setWidth_of_le (by decide)
  have hsum : v.toNat + nnn.toNat < 2 ^ 16 := by
    have := v.isLt
    have := nnn.isLt
    omega
  rw [BitVec.toNat_add, hv, toNat_jpTarget, Nat.mod_eq_of_lt hsum]

end Targets

/-- Settles O25: both forms are skips, on the comparison with `kk` and on its negation. -/
theorem skipsOnImmediate : Obligations.SkipsOnImmediate := fun _ x kk =>
  ⟨decode_packXK_seImm x kk, decode_packXK_sneImm x kk, skip_effect rfl beq_iff_eq, skip_effect rfl bne_iff_ne⟩

/-- Settles O26: the last nibble decides between the instruction and an unknown word; both forms are skips, on the
comparison of the two registers and on its negation. -/
theorem skipsOnRegisters : Obligations.SkipsOnRegisters := by
  intro s x y
  refine ⟨?_, ?_, fun n hn => ⟨?_, ?_⟩, skip_effect rfl beq_iff_eq, skip_effect rfl bne_iff_ne⟩
  · exact (decode_packXYN_seReg x y 0).trans (if_pos rfl)
  · exact (decode_packXYN_sneReg x y 0).trans (if_pos rfl)
  · exact (decode_packXYN_seReg x y n).trans (if_neg hn)
  · exact (decode_packXYN_sneReg x y n).trans (if_neg hn)

/-- Settles O28: neither target is cut to fewer bits than it has, and the fetch range is a bound on the target. -/
theorem jumpsSetPc : Obligations.JumpsSetPc := fun s nnn =>
  ⟨decode_packA_jp nnn, decode_packA_jpV0 nnn, jump_effect rfl (toNat_jpTarget nnn),
    jump_effect rfl (toNat_jpV0Target nnn (s.reg 0))⟩

end Sys2Proof.Machine
end

section
/-! PROOFS. Register load, arithmetic, logic and shift (42_alu.md): the words of group 8 decode to their instructions, and
each handler writes `V[x]`, or `V[x]` and then VF, and nothing else (R130 to R144). -/

namespace Sys2Proof

section Decoding
variable {w : Word}

theorem decode_of_nib3_eq_6 (h : nib3 w = 0x6) : decode w = .ok (.ldImm (fieldX w) (fieldKK w)) := by
  rw [decode, h]; rfl

theorem decode_of_nib3_eq_7 (h : nib3 w = 0x7) : decode w = .ok (.addImm (fieldX w) (fieldKK w)) := by
  rw [decode, h]; rfl

theorem decodeGroup8_of_nib0_eq_0 (h : nib0 w = 0x0) : decodeGroup8 w = .ok (.ldReg (fieldX w) (fieldY w)) := by
  rw [decodeGroup8, h]; rfl

theorem decodeGroup8_of_nib0_eq_1 (h : nib0 w = 0x1) : decodeGroup8 w = .ok (.orReg (fieldX w) (fieldY w)) := by
  rw [decodeGroup8, h]; rfl

theorem decodeGroup8_of_nib0_eq_2 (h : nib0 w = 0x2) : decodeGroup8 w = .ok (.andReg (fieldX w) (fieldY w)) := by
  rw [decodeGroup8, h]; rfl

theorem decodeGroup8_of_nib0_eq_3 (h : nib0 w = 0x3) : decodeGroup8 w = .ok (.xorReg (fieldX w) (fieldY w)) := by
  rw [decodeGroup8, h]; rfl

theorem decodeGroup8_of_nib0_eq_4 (h : nib0 w = 0x4) : decodeGroup8 w = .ok (.addReg (fieldX w) (fieldY w)) := by
  rw [decodeGroup8, h]; rfl

theorem decodeGroup8_of_nib0_eq_5 (h : nib0 w = 0x5) : decodeGroup8 w = .ok (.subReg (fieldX w) (fieldY w)) := by
  rw [decodeGroup8, h]; rfl

theorem decodeGroup8_of_nib0_eq_6 (h : nib0 w = 0x6) : decodeGroup8 w = .ok (.shr (fieldX w) (fieldY w)) := by
  rw [decodeGroup8, h]; rfl

theorem decodeGroup8_of_nib0_eq_7 (h : nib0 w = 0x7) : decodeGroup8 w = .ok (.subnReg (fieldX w) (fieldY w)) := by
  rw [decodeGroup8, h]; rfl

theorem decodeGroup8_of_nib0_eq_E (h : nib0 w = 0xE) : decodeGroup8 w = .ok (.shl (fieldX w) (fieldY w)) := by
  rw [decodeGroup8, h]; rfl

variable (x y : RegIdx) (kk : Byte)

theorem decode_packXK_ldImm : decode (packXK 0x6 x kk) = .ok (.ldImm x kk) := by
  rw [decode_of_nib3_eq_6 (nib3_packXK _ _ _), fieldX_packXK, fieldKK_packXK]

theorem decode_packXK_addImm : decode (packXK 0x7 x kk) = .ok (.addImm x kk) := by
  rw [decode_of_nib3_eq_7 (nib3_packXK _ _ _), fieldX_packXK, fieldKK_packXK]

/-- A word `8xyn` decodes to the instruction its last nibble selects, with the operands it was packed from. -/
theorem decode_packXYN_8 {n : BitVec 4} {f : RegIdx → RegIdx → Instr}
    (hf : ∀ {w}, nib0 w = n → decodeGroup8 w = .ok (f (fieldX w) (fieldY w))) :
    decode (packXYN 0x8 x y n) = .ok (f x y) := by
  rw [decode_of_nib3_eq_8 (nib3_packXYN _ _ _ _), hf (nib0_packXYN _ _ _ _), fieldX_packXYN, fieldY_packXYN]

end Decoding

end Sys2Proof

namespace Sys2Proof.Machine

section Frames
variable {s t : State} {P : RegIdx → Prop}

/-- A state that differs in its register file alone, and there only in registers of `P`. -/
theorem onlyRegs_of_eq_withV {V : Vector Byte 16} (ht : t = { s with V := V }) (h : KeepsRegsBut P s t) :
    OnlyRegs P s t := by
  subst ht
  exact ⟨h, rfl, rfl, ⟨rfl, fun _ => rfl⟩, ⟨rfl, rfl⟩, fun _ _ => rfl, fun _ => rfl, ⟨rfl, rfl, rfl⟩, rfl⟩

variable (s) (x : RegIdx) (b : Byte) (f : Bool)

theorem State.onlyRegs_setReg : OnlyRegs (· = x) s (s.setReg x b) :=
  onlyRegs_of_eq_withV rfl fun r hr => (s.reg_setReg x r b).trans (if_neg hr)

theorem State.onlyRegs_setResultFlag : OnlyRegs (fun r => r = x ∨ r = 15) s (s.setResultFlag x b f) :=
  onlyRegs_of_eq_withV rfl fun r hr => by
    obtain ⟨hx, hflag⟩ := not_or.mp hr
    rw [State.reg_setResultFlag, if_neg hflag, if_neg hx]

theorem State.reg_setReg_same : (s.setReg x b).reg x = b := (s.reg_setReg x x b).trans (if_pos rfl)

/-- The flag is written last, so it is what VF holds even when the result went to VF (R131). -/
theorem State.reg_setResultFlag_flag : (s.setResultFlag x b f).reg 15 = flagByte f :=
  (s.reg_setResultFlag x 15 b f).trans (if_pos rfl)

variable {x} in
theorem State.reg_setResultFlag_result (hx : x ≠ 15) : (s.setResultFlag x b f).reg x = b := by
  rw [State.reg_setResultFlag, if_neg hx, if_pos rfl]

end Frames

section Values
variable (a b : Byte)

theorem flagByte_decide (p : Prop) [Decidable p] : flagByte (decide p) = if p then 1 else 0 := by
  simp only [flagByte, decide_eq_true_eq]

theorem toNat_flagByte (f : Bool) : (flagByte f).toNat = f.toNat := by cases f <;> rfl

/-- The difference modulo 256, with the modulus added before the subtrahend is taken away, so that no natural-number
subtraction is cut off at 0 (R139). -/
theorem toNat_byte_sub : (a - b).toNat = (a.toNat + 256 - b.toNat) % 256 := by
  have hb := b.isLt
  rw [BitVec.toNat_sub]
  omega

theorem toNat_byte_shiftRight_one : (a >>> 1).toNat = a.toNat / 2 := by
  rw [BitVec.toNat_ushiftRight, Nat.shiftRight_eq_div_pow, Nat.pow_one]

theorem toNat_byte_shiftLeft_one : (a <<< 1).toNat = 2 * a.toNat % 256 := by
  rw [BitVec.toNat_shiftLeft, Nat.shiftLeft_eq, Nat.pow_one, Nat.mul_comm]

theorem toNat_shiftRightFlag : (shiftRightFlag a).toNat = a.toNat % 2 := by
  rw [shiftRightFlag, BitVec.getLsbD, Nat.toNat_testBit, Nat.pow_zero, Nat.div_one]

theorem toNat_shiftLeftFlag : (shiftLeftFlag a).toNat = a.toNat / 128 := by
  have ha := a.isLt
  rw [shiftLeftFlag, BitVec.getLsbD, Nat.toNat_testBit]
  omega

end Values

section Effects
variable {s : State} {o : Host.Outcome State Fault Refusal} {x : RegIdx} {b : Byte} {n : Nat}

/-- The effect shared by the arithmetic flag producers: their flag is a comparison. -/
theorem comparisonFlag_effect {p : Prop} [Decidable p] (ho : o = .next (s.setResultFlag x b (decide p)))
    (hb : b.toNat = n) :
    ∃ t, o = .next t ∧ (x ≠ 15 → (t.reg x).toNat = n) ∧ t.reg 15 = (if p then 1 else 0) ∧
      OnlyRegs (fun r => r = x ∨ r = 15) s t :=
  ⟨_, ho, fun hx => by rw [State.reg_setResultFlag_result s b _ hx, hb],
    by rw [State.reg_setResultFlag_flag, flagByte_decide], State.onlyRegs_setResultFlag s x b _⟩

/-- The effect shared by the shifts: their flag is a bit of the operand. -/
theorem bitFlag_effect {f : Bool} {m : Nat} (ho : o = .next (s.setResultFlag x b f)) (hb : b.toNat = n)
    (hf : f.toNat = m) :
    ∃ t, o = .next t ∧ (x ≠ 15 → (t.reg x).toNat = n) ∧ (t.reg 15).toNat = m ∧
      OnlyRegs (fun r => r = x ∨ r = 15) s t :=
  ⟨_, ho, fun hx => by rw [State.reg_setResultFlag_result s b f hx, hb],
    by rw [State.reg_setResultFlag_flag, toNat_flagByte, hf], State.onlyRegs_setResultFlag s x b f⟩

end Effects

/-- Settles O33: both are a single register write, of the immediate and of `V[y]`. -/
theorem loadsAndCopies : Obligations.LoadsAndCopies := fun s x y kk =>
  ⟨decode_packXK_ldImm x kk, decode_packXYN_8 x y decodeGroup8_of_nib0_eq_0,
    ⟨_, rfl, State.reg_setReg_same s x kk, State.onlyRegs_setReg s x kk⟩,
    ⟨_, rfl, State.reg_setReg_same s x (s.reg y), State.onlyRegs_setReg s x (s.reg y)⟩⟩

/-- Settles O34: a single register write, of the 8-bit sum. -/
theorem addImmediateWraps : Obligations.AddImmediateWraps := by
  refine fun s x kk => ⟨decode_packXK_addImm x kk, _, rfl, ?_, State.onlyRegs_setReg s x _⟩
  rw [State.reg_setReg_same, BitVec.toNat_add]

/-- Settles O35: each is a single register write, so VF is kept unless it is `V[x]`. -/
theorem logicOperations : Obligations.LogicOperations := by
  refine fun s x y => ⟨decode_packXYN_8 x y decodeGroup8_of_nib0_eq_1, decode_packXYN_8 x y decodeGroup8_of_nib0_eq_2,
    decode_packXYN_8 x y decodeGroup8_of_nib0_eq_3, ⟨_, rfl, State.onlyRegs_setReg s x _, fun k => ?_⟩,
    ⟨_, rfl, State.onlyRegs_setReg s x _, fun k => ?_⟩, ⟨_, rfl, State.onlyRegs_setReg s x _, fun k => ?_⟩⟩
  · rw [State.reg_setReg_same, BitVec.getLsbD_or]
  · rw [State.reg_setReg_same, BitVec.getLsbD_and]
  · rw [State.reg_setReg_same, BitVec.getLsbD_xor]

/-- Settles O36: the carry is the comparison of the sum before truncation with 255. -/
theorem addWithCarry : Obligations.AddWithCarry := fun _ x y =>
  ⟨decode_packXYN_8 x y decodeGroup8_of_nib0_eq_4, comparisonFlag_effect rfl (BitVec.toNat_add _ _)⟩

/-- Settles O37: `8xy7` is `8xy5` with minuend and subtrahend exchanged, in the difference and in the comparison. -/
theorem subtractWithNotBorrow : Obligations.SubtractWithNotBorrow := fun s x y =>
  ⟨decode_packXYN_8 x y decodeGroup8_of_nib0_eq_5, decode_packXYN_8 x y decodeGroup8_of_nib0_eq_7,
    comparisonFlag_effect rfl (toNat_byte_sub (s.reg x) (s.reg y)),
    comparisonFlag_effect rfl (toNat_byte_sub (s.reg y) (s.reg x))⟩

/-- Settles O38: result and flag are computed from `V[x]` alone, and `y` only stands in the word. -/
theorem shiftsByOne : Obligations.ShiftsByOne := fun s x y =>
  ⟨decode_packXYN_8 x y decodeGroup8_of_nib0_eq_6, decode_packXYN_8 x y decodeGroup8_of_nib0_eq_E,
    bitFlag_effect rfl (toNat_byte_shiftRight_one (s.reg x)) (toNat_shiftRightFlag (s.reg x)),
    bitFlag_effect rfl (toNat_byte_shiftLeft_one (s.reg x)) (toNat_shiftLeftFlag (s.reg x))⟩

end Sys2Proof.Machine
end

section
/-! PROOFS. The index register (43_index_memory.md): the words of `Annn`, `Fx1E` and `Fx29` decode to their instructions,
and each handler writes `I` alone (R160 to R163). -/

namespace Sys2Proof

section Decoding
variable {w : Word}

theorem decode_of_nib3_eq_A (h : nib3 w = 0xA) : decode w = .ok (.ldI (fieldNNN w)) := by rw [decode, h]; rfl

theorem decodeGroupF_of_fieldKK_eq_1E (h : fieldKK w = 0x1E) : decodeGroupF w = .ok (.addI (fieldX w)) := by
  rw [decodeGroupF, h]; rfl

theorem decodeGroupF_of_fieldKK_eq_29 (h : fieldKK w = 0x29) : decodeGroupF w = .ok (.ldF (fieldX w)) := by
  rw [decodeGroupF, h]; rfl

theorem decode_packA_ldI (nnn : Imm12) : decode (packA 0xA nnn) = .ok (.ldI nnn) := by
  rw [decode_of_nib3_eq_A (nib3_packA _ _), fieldNNN_packA]

/-- A word `Fxkk` decodes to the instruction its low byte selects, with the register it was packed from. -/
theorem decode_packXK_F (x : RegIdx) {kk : Byte} {f : RegIdx → Instr}
    (hf : ∀ {w}, fieldKK w = kk → decodeGroupF w = .ok (f (fieldX w))) : decode (packXK 0xF x kk) = .ok (f x) := by
  rw [decode_of_nib3_eq_F (nib3_packXK _ _ _), hf (fieldKK_packXK _ _ _), fieldX_packXK]

end Decoding

end Sys2Proof

namespace Sys2Proof.Machine

/-- Writing `I` changes `I` alone (R160). -/
theorem State.onlyI_setI (s : State) (w : Word) : OnlyI s (s.setI w) :=
  ⟨fun r _ => State.reg_setI s w r, rfl, ⟨rfl, fun _ => rfl⟩, ⟨rfl, rfl⟩, fun _ _ => rfl, fun _ => rfl,
    ⟨rfl, rfl, rfl⟩, rfl⟩

/-- The effect shared by the writers of `I`, with the value as a natural number. -/
theorem index_effect {s : State} {o : Host.Outcome State Fault Refusal} {w : Word} {n : Nat}
    (ho : o = .next (s.setI w)) (hw : w.toNat = n) : ∃ t, o = .next t ∧ t.I.toNat = n ∧ OnlyI s t :=
  ⟨s.setI w, ho, hw, State.onlyI_setI s w⟩

/-- `Fx1E`'s sum wraps at 16 bits (R162). -/
theorem toNat_word_add_byte (w : Word) (v : Byte) :
    (w + v.zeroExtend 16).toNat = (w.toNat + v.toNat) % 65536 := by
  have hv : (v.zeroExtend 16 : Word).toNat = v.toNat := BitVec.toNat_setWidth_of_le (by decide)
  rw [BitVec.toNat_add, hv]

/-- Settles O43: each is a single write of `I`, of the operand, of the 16-bit sum and of the glyph address. The operand
is extended as a jump's target is. -/
theorem indexRegisterWrites : Obligations.IndexRegisterWrites := fun s x nnn =>
  ⟨decode_packA_ldI nnn, decode_packXK_F x decodeGroupF_of_fieldKK_eq_1E,
    decode_packXK_F x decodeGroupF_of_fieldKK_eq_29, index_effect rfl (toNat_jpTarget nnn),
    index_effect rfl (toNat_word_add_byte s.I (s.reg x)), index_effect rfl (glyphAddr_toNat (s.reg x))⟩

end Sys2Proof.Machine
end

section
/-! PROOFS. The display (44_display.md): a write of the framebuffer changes the screen alone, and `00E0` writes the blank
screen (R180, R181). -/

namespace Sys2Proof.Machine

/-- Writing the framebuffer changes the screen alone (R180); it keeps also the registers a drawing may change. -/
theorem State.onlyScreen_setFb (s : State) (f : Framebuffer) (P : RegIdx → Prop) : OnlyScreen P s (s.setFb f) :=
  ⟨fun r _ => State.reg_setFb s f r, rfl, rfl, ⟨rfl, fun _ => rfl⟩, ⟨rfl, rfl⟩, fun _ => rfl, ⟨rfl, rfl, rfl⟩, rfl⟩

/-- A framebuffer of 32 rows of 64 zeros reads 0 at every row and column. -/
theorem blankScreen_pixel (y : Fin 32) (x : Fin 64) : blankScreen[y][x] = false := by
  simp only [blankScreen, Fin.getElem_fin, Vector.getElem_replicate]

/-- Settles O53: the handler is a single write of the framebuffer, of the blank screen. -/
theorem clsClearsTheScreen : Obligations.ClsClearsTheScreen := fun s =>
  ⟨rfl, s.setFb blankScreen, rfl, blankScreen_pixel, State.onlyScreen_setFb s blankScreen _⟩

end Sys2Proof.Machine
end

section
/-! PROOFS. The keypad and the timers (45_keypad_timers.md): the words `Ex9E`, `ExA1`, `Fx07`, `Fx0A`, `Fx15` and `Fx18`
decode to their instructions; the key instructions read the latch at one key or scan it, and a timer write changes that
timer alone (R190 to R196). -/

namespace Sys2Proof

section Decoding
variable {w : Word}

theorem decodeGroupE_of_fieldKK_eq_9E (h : fieldKK w = 0x9E) : decodeGroupE w = .ok (.skp (fieldX w)) := by
  rw [decodeGroupE, h]; rfl

theorem decodeGroupE_of_fieldKK_eq_A1 (h : fieldKK w = 0xA1) : decodeGroupE w = .ok (.sknp (fieldX w)) := by
  rw [decodeGroupE, h]; rfl

theorem decodeGroupF_of_fieldKK_eq_07 (h : fieldKK w = 0x07) : decodeGroupF w = .ok (.ldVxDT (fieldX w)) := by
  rw [decodeGroupF, h]; rfl

theorem decodeGroupF_of_fieldKK_eq_0A (h : fieldKK w = 0x0A) : decodeGroupF w = .ok (.ldVxK (fieldX w)) := by
  rw [decodeGroupF, h]; rfl

theorem decodeGroupF_of_fieldKK_eq_15 (h : fieldKK w = 0x15) : decodeGroupF w = .ok (.ldDTVx (fieldX w)) := by
  rw [decodeGroupF, h]; rfl

theorem decodeGroupF_of_fieldKK_eq_18 (h : fieldKK w = 0x18) : decodeGroupF w = .ok (.ldSTVx (fieldX w)) := by
  rw [decodeGroupF, h]; rfl

/-- A word `Exkk` decodes to the instruction its low byte selects, with the register it was packed from. -/
theorem decode_packXK_E (x : RegIdx) {kk : Byte} {f : RegIdx → Instr}
    (hf : ∀ {w}, fieldKK w = kk → decodeGroupE w = .ok (f (fieldX w))) : decode (packXK 0xE x kk) = .ok (f x) := by
  rw [decode_of_nib3_eq_E (nib3_packXK _ _ _), hf (fieldKK_packXK _ _ _), fieldX_packXK]

end Decoding

end Sys2Proof

namespace Sys2Proof.Machine

section Keys
variable {s : State} {k : Fin 16}

/-- The key a register selects is the one its value names modulo 16 (R198). -/
theorem State.keyOf_eq_key {x : RegIdx} (hk : k.val = (s.reg x).toNat % 16) : s.keyOf x = s.key[k] := by
  obtain rfl : lowNibble (s.reg x) = k := Fin.ext ((lowNibble_val _).trans hk.symm)
  rfl

/-- The scan answers the least key that is down: it finds one, and neither of the two is below the other (R196). -/
theorem State.firstKey_eq_some_of_least (hdown : s.key[k] = true) (hleast : ∀ j : Fin 16, j < k → s.key[j] = false) :
    s.firstKey = some k := by
  cases h : s.firstKey with
  | none => exact absurd hdown (Bool.eq_false_iff.1 ((State.firstKey_none s).1 h k))
  | some j =>
    have hkj : ¬ k < j := fun hlt => Bool.eq_false_iff.1 (State.firstKey_least h k hlt) hdown
    have hjk : ¬ j < k := fun hlt => Bool.eq_false_iff.1 (hleast j hlt) (State.firstKey_down h)
    rw [le_antisymm (not_lt.1 hkj) (not_lt.1 hjk)]

/-- A key's index is a byte's value (R196: zero-extended to 8 bits). -/
theorem toNat_keyByte (k : Fin 16) : (BitVec.ofNat 8 k.val).toNat = k.val :=
  (BitVec.toNat_ofNat _ _).trans (Nat.mod_eq_of_lt (k.isLt.trans (by decide)))

end Keys

section Timers
variable (s : State) (b : Byte)

theorem State.onlyTimers_setDT : OnlyTimers s (s.setDT b) :=
  ⟨fun r _ => State.reg_setDT s b r, rfl, rfl, ⟨rfl, fun _ => rfl⟩, fun _ _ => rfl, fun _ => rfl, ⟨rfl, rfl, rfl⟩, rfl⟩

theorem State.onlyTimers_setST : OnlyTimers s (s.setST b) :=
  ⟨fun r _ => State.reg_setST s b r, rfl, rfl, ⟨rfl, fun _ => rfl⟩, fun _ _ => rfl, fun _ => rfl, ⟨rfl, rfl, rfl⟩, rfl⟩

/-- The sound port shows the sound timer as the write left it (R195, R228). -/
theorem soundOn_setST : soundOn (s.setST b) = true ↔ 0 < b.toNat := by
  rw [soundOn, decide_eq_true_iff, State.setST_ST]

end Timers

/-- Settles O27: both forms are skips, on the key that `V[x]` selects and on its negation. -/
theorem skipsOnKeys : Obligations.SkipsOnKeys := by
  intro s x k hk
  have hkey : s.keyOf x = s.key[k] := State.keyOf_eq_key hk
  refine ⟨decode_packXK_E x decodeGroupE_of_fieldKK_eq_9E, decode_packXK_E x decodeGroupE_of_fieldKK_eq_A1,
    skip_effect rfl ?_, skip_effect rfl ?_⟩
  · rw [hkey]
  · rw [Bool.not_eq_true', hkey]

/-- Settles O56: a single register write, of DT, and two single timer writes, of `V[x]`. -/
theorem timerTransfers : Obligations.TimerTransfers := fun s x =>
  ⟨decode_packXK_F x decodeGroupF_of_fieldKK_eq_07, decode_packXK_F x decodeGroupF_of_fieldKK_eq_15,
    decode_packXK_F x decodeGroupF_of_fieldKK_eq_18,
    ⟨_, rfl, State.reg_setReg_same s x s.DT, State.onlyRegs_setReg s x s.DT⟩,
    ⟨_, rfl, State.setDT_DT s (s.reg x), State.setDT_ST s (s.reg x), State.onlyTimers_setDT s (s.reg x)⟩,
    ⟨_, rfl, State.setST_ST s (s.reg x), State.setST_DT s (s.reg x), soundOn_setST s (s.reg x),
      State.onlyTimers_setST s (s.reg x)⟩⟩

/-- Settles O57: the scan answers the least key down, which is written to `V[x]`, or none, and then `pc` alone is
written. -/
theorem keyWaitTakesLowestKey : Obligations.KeyWaitTakesLowestKey := by
  refine fun s x => ⟨decode_packXK_F x decodeGroupF_of_fieldKK_eq_0A, fun k hdown hleast => ?_, fun hnone => ?_⟩
  · refine ⟨_, execLdVxK_found s x (State.firstKey_eq_some_of_least hdown hleast), ?_, State.onlyRegs_setReg s x _⟩
    rw [State.reg_setReg_same, toNat_keyByte]
  · exact ⟨_, execLdVxK_waits s x ((State.firstKey_none s).2 hnone), State.setPc_pc s _, State.onlyPc_setPc s _⟩

end Sys2Proof.Machine
end

section
/-! PROOFS. The unknown word (60_exceptions.md R211): a word of no row is rejected by the decoder, and a tick that fetches
one takes the fault. -/

namespace Sys2Proof

/-- The decoder rejects every word that no row of the map accepts (R75): a word it decodes has its instruction's row. -/
theorem exists_decode_eq_error_of_no_row {w : Word} (hno : ∀ r ∈ opcodeMap, r.accepts w = false) :
    ∃ e, decode w = .error e := by
  cases hd : decode w with
  | error e => exact ⟨e, rfl⟩
  | ok i => exact absurd (row_accepts_of_decode hd) (Bool.eq_false_iff.1 (hno i.row i.row_mem_opcodeMap))

end Sys2Proof

namespace Sys2Proof.Machine

/-- Settles O19: the tick is the dispatch's thirty-fifth arm, and the steps before it write neither registers, stack,
screen nor memory. -/
theorem unknownWordRaisesFault : Obligations.UnknownWordRaisesFault := by
  intro inp s h hpc hno
  obtain ⟨e, hd⟩ := exists_decode_eq_error_of_no_row hno
  refine ⟨_, tick_unknown h (s.fetchInRange_iff.2 hpc) hd, ?_, ?_, ?_, fun r _ => ?_, ?_, ⟨?_, fun j => ?_⟩,
    fun y x => ?_, fun b => ?_⟩
  · rw [State.raise_fault, State.fetched_opcode, State.fetchWord_beginTick]; rfl
  · rw [State.raise_pc, State.fetched_pc, State.beginTick_pc]
  · rw [State.raise_opcode, State.fetched_opcode, State.fetchWord_beginTick]; rfl
  · rw [State.reg_raise, State.reg_fetched, State.reg_beginTick]
  · rw [State.raise_I, State.fetched_I, State.beginTick_I]
  · rw [State.raise_SP, State.fetched_SP, State.beginTick_SP]
  · rw [State.raise_stack, State.fetched_stack, State.beginTick_stack]
  · rw [State.pixel, State.raise_fb, State.fetched_fb, State.beginTick_fb, State.pixel]
  · rw [State.byte, State.raise_mem, State.fetched_mem, State.beginTick_mem, State.byte]

end Sys2Proof.Machine
end

section
/-! PROOFS. Decoding and encoding (30_encoding.md sections 1 to 4): the decoder on the word of every instruction, a word
put together again from its fields, and the words no row accepts (R70 to R78). -/

namespace Sys2Proof

section Decoding
variable {w : Word}

theorem decode_of_nib3_eq_2 (h : nib3 w = 0x2) : decode w = .ok (.call (fieldNNN w)) := by rw [decode, h]; rfl

theorem decode_of_nib3_eq_C (h : nib3 w = 0xC) : decode w = .ok (.rnd (fieldX w) (fieldKK w)) := by
  rw [decode, h]; rfl

theorem decode_of_nib3_eq_D (h : nib3 w = 0xD) : decode w = .ok (.drw (fieldX w) (fieldY w) (fieldN w)) := by
  rw [decode, h]; rfl

theorem decodeGroupF_of_fieldKK_eq_33 (h : fieldKK w = 0x33) : decodeGroupF w = .ok (.ldB (fieldX w)) := by
  rw [decodeGroupF, h]; rfl

theorem decodeGroupF_of_fieldKK_eq_55 (h : fieldKK w = 0x55) : decodeGroupF w = .ok (.storeRegs (fieldX w)) := by
  rw [decodeGroupF, h]; rfl

theorem decodeGroupF_of_fieldKK_eq_65 (h : fieldKK w = 0x65) : decodeGroupF w = .ok (.loadRegs (fieldX w)) := by
  rw [decodeGroupF, h]; rfl

theorem decode_packA_call (nnn : Imm12) : decode (packA 0x2 nnn) = .ok (.call nnn) := by
  rw [decode_of_nib3_eq_2 (nib3_packA _ _), fieldNNN_packA]

theorem decode_packXK_rnd (x : RegIdx) (kk : Byte) : decode (packXK 0xC x kk) = .ok (.rnd x kk) := by
  rw [decode_of_nib3_eq_C (nib3_packXK _ _ _), fieldX_packXK, fieldKK_packXK]

theorem decode_packXYN_drw (x y : RegIdx) (n : Fin 16) :
    decode (packXYN 0xD x y (BitVec.ofFin (w := 4) n)) = .ok (.drw x y n) := by
  rw [decode_of_nib3_eq_D (nib3_packXYN _ _ _ _), fieldX_packXYN, fieldY_packXYN, fieldN_packXYN]

end Decoding

/-- Settles O1: the decoder selects by the nibbles the encoder fixes, and reads back each operand field whole. -/
theorem decodeOfEncode : Obligations.DecodeOfEncode := by
  intro i
  cases i with
  | cls | ret => rfl
  | jp nnn => exact decode_packA_jp nnn
  | call nnn => exact decode_packA_call nnn
  | ldI nnn => exact decode_packA_ldI nnn
  | jpV0 nnn => exact decode_packA_jpV0 nnn
  | seImm x kk => exact decode_packXK_seImm x kk
  | sneImm x kk => exact decode_packXK_sneImm x kk
  | ldImm x kk => exact decode_packXK_ldImm x kk
  | addImm x kk => exact decode_packXK_addImm x kk
  | rnd x kk => exact decode_packXK_rnd x kk
  | seReg x y => exact (decode_packXYN_seReg x y 0).trans (if_pos rfl)
  | sneReg x y => exact (decode_packXYN_sneReg x y 0).trans (if_pos rfl)
  | ldReg x y => exact decode_packXYN_8 x y decodeGroup8_of_nib0_eq_0
  | orReg x y => exact decode_packXYN_8 x y decodeGroup8_of_nib0_eq_1
  | andReg x y => exact decode_packXYN_8 x y decodeGroup8_of_nib0_eq_2
  | xorReg x y => exact decode_packXYN_8 x y decodeGroup8_of_nib0_eq_3
  | addReg x y => exact decode_packXYN_8 x y decodeGroup8_of_nib0_eq_4
  | subReg x y => exact decode_packXYN_8 x y decodeGroup8_of_nib0_eq_5
  | shr x y => exact decode_packXYN_8 x y decodeGroup8_of_nib0_eq_6
  | subnReg x y => exact decode_packXYN_8 x y decodeGroup8_of_nib0_eq_7
  | shl x y => exact decode_packXYN_8 x y decodeGroup8_of_nib0_eq_E
  | drw x y n => exact decode_packXYN_drw x y n
  | skp x => exact decode_packXK_E x decodeGroupE_of_fieldKK_eq_9E
  | sknp x => exact decode_packXK_E x decodeGroupE_of_fieldKK_eq_A1
  | ldVxDT x => exact decode_packXK_F x decodeGroupF_of_fieldKK_eq_07
  | ldVxK x => exact decode_packXK_F x decodeGroupF_of_fieldKK_eq_0A
  | ldDTVx x => exact decode_packXK_F x decodeGroupF_of_fieldKK_eq_15
  | ldSTVx x => exact decode_packXK_F x decodeGroupF_of_fieldKK_eq_18
  | addI x => exact decode_packXK_F x decodeGroupF_of_fieldKK_eq_1E
  | ldF x => exact decode_packXK_F x decodeGroupF_of_fieldKK_eq_29
  | ldB x => exact decode_packXK_F x decodeGroupF_of_fieldKK_eq_33
  | storeRegs x => exact decode_packXK_F x decodeGroupF_of_fieldKK_eq_55
  | loadRegs x => exact decode_packXK_F x decodeGroupF_of_fieldKK_eq_65

section Reassembly
variable {w : Word} {i : Instr} {a n : BitVec 4} {kk : Byte}

/-- A word of format A is its leading nibble and its address (R71). -/
theorem packA_fields (h3 : (nib3 w).toNat = a.toNat) : packA a (fieldNNN w) = w := by
  apply BitVec.eq_of_toNat_eq
  rw [toNat_packA, toNat_fieldNNN, ← h3, toNat_nib3]
  omega

/-- A word of format XK, or X, is its leading nibble, its register and its low byte (R71). -/
theorem packXK_fields (h3 : (nib3 w).toNat = a.toNat) (hkk : (fieldKK w).toNat = kk.toNat) :
    packXK a (fieldX w) kk = w := by
  apply BitVec.eq_of_toNat_eq
  rw [toNat_packXK, val_fieldX, ← h3, ← hkk, toNat_nib3, toNat_fieldKK]
  omega

/-- A word of format XY or XYN is its leading nibble, its two registers and its last nibble (R71). -/
theorem packXYN_fields (h3 : (nib3 w).toNat = a.toNat) (h0 : (nib0 w).toNat = n.toNat) :
    packXYN a (fieldX w) (fieldY w) n = w := by
  apply BitVec.eq_of_toNat_eq
  rw [toNat_packXYN, val_fieldX, val_fieldY, ← h3, ← h0, toNat_nib3, toNat_nib0]
  omega

theorem encode_of_decodeGroup0 (h : decodeGroup0 w = .ok i) : encode i = w := by
  unfold decodeGroup0 at h
  split at h <;> cases h
  all_goals exact (BitVec.eq_of_toNat_eq ‹_›).symm

theorem encode_of_decodeGroup8 (h3 : (nib3 w).toNat = 0x8) (h : decodeGroup8 w = .ok i) : encode i = w := by
  unfold decodeGroup8 at h
  split at h <;> cases h
  all_goals exact packXYN_fields h3 ‹_›

theorem encode_of_decodeGroupE (h3 : (nib3 w).toNat = 0xE) (h : decodeGroupE w = .ok i) : encode i = w := by
  unfold decodeGroupE at h
  split at h <;> cases h
  all_goals exact packXK_fields h3 ‹_›

theorem encode_of_decodeGroupF (h3 : (nib3 w).toNat = 0xF) (h : decodeGroupF w = .ok i) : encode i = w := by
  unfold decodeGroupF at h
  split at h <;> cases h
  all_goals exact packXK_fields h3 ‹_›

end Reassembly

/-- Settles O2: every arm of the decoder keeps the fields that the word is made of. The arms are numbered from 1, so
`h_1` is the arm of `nib3 = 0` and `h_16` that of `nib3 = F`; `h_17` answers an error. -/
theorem encodeOfDecode : Obligations.EncodeOfDecode := by
  intro w i h
  unfold decode at h
  split at h
  case h_1 => exact encode_of_decodeGroup0 h
  case h_6 h3 | h_10 h3 =>
    obtain ⟨h0, rfl⟩ := requireNib0Zero_eq_ok_iff.1 h
    exact packXYN_fields h3 (congrArg BitVec.toNat h0)
  case h_9 h3 => exact encode_of_decodeGroup8 h3 h
  case h_15 h3 => exact encode_of_decodeGroupE h3 h
  case h_16 h3 => exact encode_of_decodeGroupF h3 h
  case h_17 => cases h
  all_goals cases h
  case h_2 h3 | h_3 h3 | h_11 h3 | h_12 h3 => exact packA_fields h3
  case h_14 h3 => exact packXYN_fields h3 rfl
  all_goals exact packXK_fields ‹_› rfl

/-- Settles O4: each of the two rows is the row of the one instruction the word decodes to. -/
theorem opcodeRowsAreDisjoint : Obligations.OpcodeRowsAreDisjoint := by
  intro r hr r' hr' w h h'
  obtain ⟨-, -, hmap⟩ := decoderFollowsOpcodeMap
  obtain ⟨i, hi, rfl⟩ := (hmap r hr w).1 h
  obtain ⟨j, hj, rfl⟩ := (hmap r' hr' w).1 h'
  rw [Except.ok.inj (hi.symm.trans hj)]

section Unknown
variable {w : Word}

theorem requireNib0Zero_eq_error_iff {i : Instr} :
    (∃ e, requireNib0Zero w i = .error e) ↔ nib0 w ≠ 0 := by
  unfold requireNib0Zero
  split
  case isTrue h => simp [h]
  case isFalse h => exact ⟨fun _ => h, fun _ => ⟨_, rfl⟩⟩

theorem decodeGroup0_eq_error_iff : (∃ e, decodeGroup0 w = .error e) ↔ w ≠ 0x00E0 ∧ w ≠ 0x00EE := by
  unfold decodeGroup0
  split <;> simp_all [← BitVec.toNat_inj]

theorem decodeGroup8_eq_error_iff :
    (∃ e, decodeGroup8 w = .error e) ↔ nib0 w ∈ [0x8, 0x9, 0xA, 0xB, 0xC, 0xD, 0xF] := by
  have hlt := (nib0 w).isLt
  unfold decodeGroup8
  split <;> simp_all [← BitVec.toNat_inj]
  omega

theorem decodeGroupE_eq_error_iff : (∃ e, decodeGroupE w = .error e) ↔ fieldKK w ∉ [0x9E, 0xA1] := by
  unfold decodeGroupE
  split <;> simp_all [← BitVec.toNat_inj]

theorem decodeGroupF_eq_error_iff : (∃ e, decodeGroupF w = .error e) ↔
    fieldKK w ∉ [0x07, 0x0A, 0x15, 0x18, 0x1E, 0x29, 0x33, 0x55, 0x65] := by
  unfold decodeGroupF
  split <;> simp_all [← BitVec.toNat_inj]

end Unknown

/-- Settles O5: the leading nibble selects at most one class, and its arm of the decoder rejects exactly that class. -/
theorem unknownWordsAreTheSixClasses : Obligations.UnknownWordsAreTheSixClasses := by
  intro w
  unfold decode
  split
  case h_1 h3 =>
    rw [decodeGroup0_eq_error_iff, show nib3 w = 0x0 from BitVec.eq_of_toNat_eq h3]; simp
  case h_6 h3 =>
    rw [requireNib0Zero_eq_error_iff, show nib3 w = 0x5 from BitVec.eq_of_toNat_eq h3]; simp
  case h_9 h3 =>
    rw [decodeGroup8_eq_error_iff, show nib3 w = 0x8 from BitVec.eq_of_toNat_eq h3]; simp
  case h_10 h3 =>
    rw [requireNib0Zero_eq_error_iff, show nib3 w = 0x9 from BitVec.eq_of_toNat_eq h3]; simp
  case h_15 h3 =>
    rw [decodeGroupE_eq_error_iff, show nib3 w = 0xE from BitVec.eq_of_toNat_eq h3]; simp
  case h_16 h3 =>
    rw [decodeGroupF_eq_error_iff, show nib3 w = 0xF from BitVec.eq_of_toNat_eq h3]; simp
  case h_17 =>
    have hlt := (nib3 w).isLt
    simp only [imp_false] at *
    exfalso
    omega
  all_goals simp [← BitVec.toNat_inj, *]

/-- Settles O6: each word is decoded by evaluation. -/
theorem specWordsDecode : Obligations.SpecWordsDecode := ⟨rfl, rfl, rfl, rfl, rfl, rfl, rfl, rfl, rfl⟩

/-- Settles O7: the two bytes put together are the word, which decodes to its instruction. -/
theorem instructionBytesAreBigEndian : Obligations.InstructionBytesAreBigEndian := by
  refine fun i rest => ⟨rfl, ?_, fun b0 b1 h => ?_⟩
  · simp only [encodeBytes, List.cons_append, List.nil_append, decodeBytes, wordOfBytes_split, decodeOfEncode i]
  · obtain ⟨rfl, rfl⟩ : highByte (encode i) = b0 ∧ lowByte (encode i) = b1 := by simpa [encodeBytes] using h
    rw [toNat_highByte, toNat_lowByte, Nat.div_add_mod]

end Sys2Proof
end

section
/-! PROOFS. The one check of a handler (60_exceptions.md sections 1 and 2): which handlers can fault, what is left when
one does, and which pieces of state each instruction may write at all (R27, R28, R210, R216, R219). -/

namespace Sys2Proof.Machine

section Checks
variable {s t : State} {i : Instr} {c : FaultCause}

/-- The check of a handler fails, and the fault it takes then (R219). An instruction not named has no check. -/
inductive CheckFails (s : State) : Instr → FaultCause → Prop where
  | emptyStack (h : s.SP.val = 0) : CheckFails s .ret .stackUnderflow
  | fullStack (nnn : Imm12) (h : s.SP.val = 16) : CheckFails s (.call nnn) .stackOverflow
  | digits (x : RegIdx) (h : s.dataInRange 3 = false) : CheckFails s (.ldB x) .addressOutOfRange
  | store (x : RegIdx) (h : s.dataInRange (x.val + 1) = false) : CheckFails s (.storeRegs x) .addressOutOfRange
  | load (x : RegIdx) (h : s.dataInRange (x.val + 1) = false) : CheckFails s (.loadRegs x) .addressOutOfRange
  | draw (x y : RegIdx) (n : Fin 16) (h : s.dataInRange n.val = false) : CheckFails s (.drw x y n) .addressOutOfRange

/-- A handler whose check fails takes the fault and does nothing else. -/
theorem CheckFails.exec_eq (h : CheckFails s i c) : exec i s = .next (s.raiseInHandler c) := by
  cases h with
  | emptyStack h => exact execRet_underflows s h
  | fullStack nnn h => exact execCall_overflows s nnn h
  | digits x h => exact execLdB_faults s x h
  | store x h => exact execStoreRegs_faults s x h
  | load x h => exact execLoadRegs_faults s x h
  | draw x y n h => exact execDrw_faults s x y n h

theorem handlerUpdate_of_exec (h : exec i s = .next t) : HandlerUpdate s i t := by
  obtain ⟨t', ht', hu⟩ := exec_update i s
  cases ht'.symm.trans h
  exact hu

/-- A handler whose check passes, or that has none, leaves the fault latch alone (R219). -/
theorem exec_fault_eq (hpass : ∀ c, ¬ CheckFails s i c) (h : exec i s = .next t) : t.fault = s.fault := by
  cases i with
  | ret =>
    cases (execRet_pops s (Nat.pos_of_ne_zero fun h0 => hpass _ (.emptyStack h0))).symm.trans h
    rfl
  | call nnn =>
    have hlt : s.SP.val < 16 :=
      Nat.lt_of_le_of_ne (Nat.le_of_lt_succ s.SP.isLt) fun h16 => hpass _ (.fullStack nnn h16)
    cases (execCall_pushes s nnn hlt).symm.trans h
    rfl
  | ldB x =>
    cases (execLdB_stores s x (Bool.of_not_eq_false fun hr => hpass _ (.digits x hr))).symm.trans h
    rfl
  | storeRegs x =>
    cases (execStoreRegs_stores s x (Bool.of_not_eq_false fun hr => hpass _ (.store x hr))).symm.trans h
    rfl
  | loadRegs x =>
    cases (execLoadRegs_loads s x (Bool.of_not_eq_false fun hr => hpass _ (.load x hr))).symm.trans h
    exact State.setRegsFrom_fault s _ _
  | drw x y n =>
    cases (execDrw_draws s x y n (Bool.of_not_eq_false fun hr => hpass _ (.draw x y n hr))).symm.trans h
    rfl
  | seImm | sneImm | seReg | sneReg | skp | sknp =>
    cases h
    exact State.skipIf_fault s _
  | ldVxK x =>
    cases h
    cases s.firstKey <;> rfl
  | _ =>
    cases h
    rfl

/-- What a handler can answer: the fault of its failed check, or an update that leaves the fault latch alone. -/
theorem exec_faults_or_passes (h : exec i s = .next t) :
    (∃ c, CheckFails s i c ∧ t = s.raiseInHandler c) ∨ ((∀ c, ¬ CheckFails s i c) ∧ t.fault = s.fault) := by
  by_cases hc : ∃ c, CheckFails s i c
  · obtain ⟨c, hc⟩ := hc
    exact .inl ⟨c, hc, Host.Outcome.next.inj (h.symm.trans hc.exec_eq)⟩
  · exact .inr ⟨not_exists.1 hc, exec_fault_eq (not_exists.1 hc) h⟩

/-- The address check fails when there is a last byte and its address is not in RAM (20_memory.md R54). -/
theorem State.dataInRange_eq_false_iff (s : State) (n : Nat) :
    s.dataInRange n = false ↔ 0 < n ∧ 4096 ≤ s.I.toNat + (n - 1) := by
  rw [← Bool.not_eq_true, State.dataInRange_iff, not_or, Nat.pos_iff_ne_zero, Nat.not_lt]

/-- Taking a fault in a handler is the fault entry of R216, with the fetch address `pc - 2`. -/
theorem CheckFails.takesFault (h : CheckFails s i c) : ∃ t, exec i s = .next t ∧ TakesFault c (s.pc - 2) s t :=
  ⟨_, h.exec_eq, rfl⟩

end Checks

/-- Settles O51: the address check is the bound, on the last address used, of each of the four instructions. -/
theorem dataAccessOutOfRangeFaults : Obligations.DataAccessOutOfRangeFaults := by
  refine fun s x y n => ⟨fun h => ?_, fun h => ⟨?_, ?_⟩, fun hn h => ?_⟩
  · exact (CheckFails.digits x ((s.dataInRange_eq_false_iff 3).2 ⟨by decide, h⟩)).takesFault
  · exact (CheckFails.store x ((s.dataInRange_eq_false_iff _).2 ⟨Nat.succ_pos _, h⟩)).takesFault
  · exact (CheckFails.load x ((s.dataInRange_eq_false_iff _).2 ⟨Nat.succ_pos _, h⟩)).takesFault
  · exact (CheckFails.draw x y n ((s.dataInRange_eq_false_iff _).2 ⟨hn, h⟩)).takesFault

/-- Settles O52: a handler that changes the fault latch is one whose check fails, and each check is a disjunct. -/
theorem onlyTheseHandlersFault : Obligations.OnlyTheseHandlersFault := by
  intro i s t h hne
  obtain ⟨c, hc, rfl⟩ | ⟨-, heq⟩ := exec_faults_or_passes h
  · cases hc with
    | emptyStack h0 => exact .inl ⟨rfl, h0, rfl⟩
    | fullStack nnn h16 => exact .inr (.inl ⟨nnn, rfl, h16, rfl⟩)
    | digits x hr => exact .inr (.inr ⟨⟨x, .inl ⟨rfl, ((s.dataInRange_eq_false_iff _).1 hr).2⟩⟩, rfl⟩)
    | store x hr =>
      exact .inr (.inr ⟨⟨x, .inr (.inl ⟨.inl rfl, ((s.dataInRange_eq_false_iff _).1 hr).2⟩)⟩, rfl⟩)
    | load x hr =>
      exact .inr (.inr ⟨⟨x, .inr (.inl ⟨.inr rfl, ((s.dataInRange_eq_false_iff _).1 hr).2⟩)⟩, rfl⟩)
    | draw x y n hr =>
      exact .inr (.inr ⟨⟨x, .inr (.inr ⟨y, n, rfl, (s.dataInRange_eq_false_iff _).1 hr⟩)⟩, rfl⟩)
  · exact absurd heq hne

section Writers
variable {s t : State} {i : Instr}

theorem HandlerUpdate.call_of_stack_ne (h : HandlerUpdate s i t) (hne : t.stack ≠ s.stack) :
    ∃ nnn, i = .call nnn := by
  cases h
  case push nnn _ => exact ⟨nnn, rfl⟩
  all_goals exact absurd (by simp) hne

theorem HandlerUpdate.ret_or_call_of_SP_ne (h : HandlerUpdate s i t) (hne : t.SP ≠ s.SP) :
    i = .ret ∨ ∃ nnn, i = .call nnn := by
  cases h
  case push nnn _ => exact .inr ⟨nnn, rfl⟩
  case pop => exact .inl rfl
  all_goals exact absurd (by simp) hne

theorem HandlerUpdate.index_writer_of_I_ne (h : HandlerUpdate s i t) (hne : t.I ≠ s.I) :
    (∃ nnn, i = .ldI nnn) ∨ (∃ x, i = .addI x) ∨ (∃ x, i = .ldF x) := by
  cases h
  case loadIndex nnn => exact .inl ⟨nnn, rfl⟩
  case addIndex x => exact .inr (.inl ⟨x, rfl⟩)
  case glyphIndex x => exact .inr (.inr ⟨x, rfl⟩)
  all_goals exact absurd (by simp) hne

theorem HandlerUpdate.display_of_fb_ne (h : HandlerUpdate s i t) (hne : t.fb ≠ s.fb) :
    i = .cls ∨ ∃ x y n, i = .drw x y n := by
  cases h
  case clearScreen => exact .inl rfl
  case draw x y n => exact .inr ⟨x, y, n, rfl⟩
  all_goals exact absurd (by simp) hne

/-- Only the two stores replace memory, and each with the bytes it stores (20_memory.md R51). -/
theorem HandlerUpdate.mem_cases (h : HandlerUpdate s i t) :
    t.mem = s.mem ∨ (∃ x, i = .ldB x ∧ t.mem = (s.storeData (bcdDigits (s.reg x))).mem) ∨
      (∃ x, i = .storeRegs x ∧ t.mem = (s.storeData (s.regsUpTo x)).mem) := by
  cases h
  case storeDigits x => exact .inr (.inl ⟨x, rfl, rfl⟩)
  case storeRegisters x => exact .inr (.inr ⟨x, rfl, rfl⟩)
  all_goals exact .inl (by simp)

/-- Memory after a handler: as before, or with bytes stored whose range the handler has checked (20_memory.md R54). -/
theorem exec_mem_cases (h : exec i s = .next t) :
    t.mem = s.mem ∨
      (∃ x, i = .ldB x ∧ s.dataInRange 3 = true ∧ t.mem = (s.storeData (bcdDigits (s.reg x))).mem) ∨
      (∃ x, i = .storeRegs x ∧ s.dataInRange (x.val + 1) = true ∧ t.mem = (s.storeData (s.regsUpTo x)).mem) := by
  obtain ⟨c, -, rfl⟩ | ⟨hpass, -⟩ := exec_faults_or_passes h
  · exact .inl (State.raiseInHandler_mem s c)
  · obtain hm | ⟨x, rfl, hm⟩ | ⟨x, rfl, hm⟩ := (handlerUpdate_of_exec h).mem_cases
    · exact .inl hm
    · exact .inr (.inl ⟨x, rfl, Bool.of_not_eq_false fun hr => hpass _ (.digits x hr), hm⟩)
    · exact .inr (.inr ⟨x, rfl, Bool.of_not_eq_false fun hr => hpass _ (.store x hr), hm⟩)

/-- A byte that a store in range changes is one of the bytes stored, and lies in RAM. -/
theorem State.bounds_of_read_storeData_ne {bs : List Byte} {n a : Nat} (hlen : bs.length = n + 1)
    (hr : s.dataInRange (n + 1) = true) (hne : (s.storeData bs).mem.read a ≠ s.mem.read a) :
    a < 4096 ∧ s.I.toNat ≤ a ∧ a ≤ s.I.toNat + n := by
  rw [State.dataInRange_succ] at hr
  rw [State.read_storeData, hlen] at hne
  have hin : s.I.toNat ≤ a ∧ a < s.I.toNat + (n + 1) := by
    by_contra hout
    exact hne (if_neg hout)
  omega

end Writers

/-- Settles O32: the push is the one update that writes a slot, the push and the pop the two that move SP. -/
theorem onlyCallAndRetUseTheStack : Obligations.OnlyCallAndRetUseTheStack := fun _ _ _ h =>
  ⟨(handlerUpdate_of_exec h).call_of_stack_ne, (handlerUpdate_of_exec h).ret_or_call_of_SP_ne⟩

/-- Settles O50: each update that writes `I`, a timer or the screen names its instructions, and none writes a latch. -/
theorem eachStateHasItsWriters : Obligations.EachStateHasItsWriters := by
  intro i s t h
  have hu := handlerUpdate_of_exec h
  refine ⟨hu.index_writer_of_I_ne, fun hne => ?_, fun hne => ?_, hu.display_of_fb_ne, hu.keepsLatches⟩
  · by_contra hno
    exact hne (hu.DT_eq (not_exists.1 hno))
  · by_contra hno
    exact hne (hu.ST_eq (not_exists.1 hno))

/-- Settles O49: a changed byte is one of those a store has put, and each store has checked its range. -/
theorem onlyStoresWriteMemory : Obligations.OnlyStoresWriteMemory := by
  intro i s t a h hne
  rw [State.byte, State.byte] at hne
  obtain hm | ⟨x, rfl, hr, hm⟩ | ⟨x, rfl, hr, hm⟩ := exec_mem_cases h
  · exact absurd (by rw [hm]) hne
  · rw [hm] at hne
    obtain ⟨hram, hlo, hhi⟩ := State.bounds_of_read_storeData_ne (length_bcdDigits _) hr hne
    exact ⟨hram, hlo, .inl ⟨x, rfl, hhi⟩⟩
  · rw [hm] at hne
    obtain ⟨hram, hlo, hhi⟩ := State.bounds_of_read_storeData_ne (s.length_regsUpTo x) hr hne
    exact ⟨hram, hlo, .inr ⟨x, rfl, hhi⟩⟩

end Sys2Proof.Machine
end

section
/-! PROOFS. The invariant (10_state.md R37; 60_exceptions.md R218): every handler keeps it from the state a fetch
leaves, so every tick and every other move of the host keeps it. -/

namespace Sys2Proof.Machine

section Handlers
variable {s t : State} {i : Instr}

theorem exec_mem_wf (hmem : s.mem.wf = true) (h : exec i s = .next t) : t.mem.wf = true := by
  obtain hm | ⟨x, -, hr, hm⟩ | ⟨x, -, hr, hm⟩ := exec_mem_cases h
  · rwa [hm]
  · rw [hm]
    exact State.wf_storeData hmem hr
  · rw [hm]
    exact State.wf_storeData hmem (by rwa [State.length_regsUpTo])

/-- The return addresses in use are words a fetch has left in `pc`, at most 0x1000 (R37). -/
def State.ReturnsBounded (s : State) : Prop := ∀ j : Fin 16, j.val < s.SP.val → (s.stack[j]).toNat ≤ 0x1000

/-- A push adds `pc` to the return addresses in use. -/
theorem State.ReturnsBounded.pushPc (hret : s.ReturnsBounded) (hpc : s.pc.toNat ≤ 0x1000) (h : s.SP.val < 16) :
    (s.pushPc h).ReturnsBounded := by
  intro j hj
  rw [State.pushPc_SP] at hj
  simp only [State.pushPc_stack, Fin.getElem_fin, Vector.getElem_set]
  split
  case isTrue => exact hpc
  case isFalse hne => exact hret j (Nat.lt_of_le_of_ne (Nat.le_of_lt_succ hj) (Ne.symm hne))

/-- A pop takes one out of use. -/
theorem State.ReturnsBounded.popPc (hret : s.ReturnsBounded) (h : 0 < s.SP.val) : (s.popPc h).ReturnsBounded :=
  fun j hj => hret j (Nat.lt_of_lt_of_le hj (Nat.sub_le _ _))

/-- Nothing else touches them. -/
theorem State.ReturnsBounded.of_eq (hret : s.ReturnsBounded) (hSP : t.SP = s.SP) (hstack : t.stack = s.stack) :
    t.ReturnsBounded := by
  unfold State.ReturnsBounded
  rwa [hSP, hstack]

theorem exec_returnsBounded (hret : s.ReturnsBounded) (hpc : s.pc.toNat ≤ 0x1000) (h : exec i s = .next t) :
    t.ReturnsBounded := by
  cases handlerUpdate_of_exec h
  case push nnn hlt => exact (hret.pushPc hpc hlt).of_eq rfl rfl
  case pop hpos => exact hret.popPc hpos
  all_goals exact hret.of_eq (by simp) (by simp)

theorem State.skipIf_pc_le (c : Bool) (hpc : s.pc.toNat ≤ 0x1000) : (s.skipIf c).pc.toNat ≤ 0x10FE := by
  have hadd : (s.pc + 2).toNat ≤ s.pc.toNat + 2 := by
    rw [BitVec.toNat_add]
    exact Nat.mod_le _ _
  rw [State.skipIf_pc]
  split <;> omega

/-- `pc` after a handler: at most 0x10FE, which `Bnnn` alone can reach, if before it `pc` was one that a fetch
leaves. -/
theorem exec_pc_le (hret : s.ReturnsBounded) (hlo : 2 ≤ s.pc.toNat) (hhi : s.pc.toNat ≤ 0x1000)
    (h : exec i s = .next t) : t.pc.toNat ≤ 0x10FE := by
  have hkept : s.pc.toNat ≤ 0x10FE := by omega
  cases i with
  | seImm | sneImm | seReg | sneReg | skp | sknp =>
    cases h
    exact State.skipIf_pc_le _ hhi
  | jp nnn =>
    cases h
    have := nnn.isLt
    rw [State.setPc_pc, toNat_jpTarget]
    omega
  | jpV0 nnn =>
    cases h
    have := nnn.isLt
    have := (s.reg 0).isLt
    rw [State.setPc_pc, toNat_jpV0Target]
    omega
  | call nnn =>
    have := nnn.isLt
    simp only [exec, execCall] at h
    split at h <;> cases h
    · rw [State.setPc_pc, toNat_jpTarget]
      omega
    · exact hkept
  | ret =>
    simp only [exec, execRet] at h
    split at h
    case isTrue hpos =>
      cases h
      have htop : s.SP.val - 1 < 16 := by have := s.SP.isLt; omega
      exact (hret ⟨s.SP.val - 1, htop⟩ (Nat.sub_lt hpos Nat.one_pos)).trans (by decide)
    case isFalse =>
      cases h
      exact hkept
  | ldVxK x =>
    cases hk : s.firstKey with
    | none =>
      cases (execLdVxK_waits s x hk).symm.trans h
      rw [State.setPc_pc, BitVec.toNat_sub_of_le hlo]
      exact (Nat.sub_le _ _).trans hkept
    | some k =>
      cases (execLdVxK_found s x hk).symm.trans h
      exact hkept
  | drw | ldB | storeRegs | loadRegs =>
    simp only [exec, execDrw, execLdB, execStoreRegs, execLoadRegs] at h
    split at h <;> cases h <;> simpa using hkept
  | _ =>
    cases h
    exact hkept

/-- A handler keeps the invariant from a state that a fetch leaves: no fault, and `pc` 2 to 0x1000. -/
theorem exec_keeps_inv (hmem : s.mem.wf = true) (hret : s.ReturnsBounded) (hlo : 2 ≤ s.pc.toNat)
    (hhi : s.pc.toNat ≤ 0x1000) (hfault : s.fault = none) (h : exec i s = .next t) : t.Inv := by
  refine ⟨exec_mem_wf hmem h, exec_pc_le hret hlo hhi h, exec_returnsBounded hret hhi h, fun r hr => ?_⟩
  obtain ⟨c, -, rfl⟩ | ⟨-, heq⟩ := exec_faults_or_passes h
  · cases hr
    exact .inr (BitVec.sub_add_cancel s.pc 2).symm
  · rw [heq, hfault] at hr
    cases hr

end Handlers

section Moves
variable {s t : State}

/-- The invariant, where memory and the return stack are as before. -/
theorem State.Inv.of_memory_stack_eq (h : s.Inv) (hmem : t.mem = s.mem) (hSP : t.SP = s.SP) (hstack : t.stack = s.stack)
    (hpc : t.pc.toNat ≤ 0x10FE) (hrec : ∀ r, t.fault = some r → t.pc = r.pcAtFetch ∨ t.pc = r.pcAtFetch + 2) :
    t.Inv := by
  obtain ⟨hwf, -, hret, -⟩ := h
  exact ⟨by rwa [hmem], hpc, State.ReturnsBounded.of_eq hret hSP hstack, hrec⟩

/-- The invariant reads neither the host's side of the ports, nor the timers, nor the latches. -/
theorem State.Inv.of_eq (h : s.Inv) (hmem : t.mem = s.mem) (hSP : t.SP = s.SP) (hstack : t.stack = s.stack)
    (hpc : t.pc = s.pc) (hfault : t.fault = s.fault) : t.Inv :=
  h.of_memory_stack_eq hmem hSP hstack (by rw [hpc]; exact h.pcBound) (by rw [hfault, hpc]; exact h.faultPc)

/-- A fetch leaves `pc` at 2 to 0x1000 (R94, R96). -/
theorem State.fetched_pc_bounds (hr : s.fetchInRange = true) (inp : TickInput) :
    2 ≤ (s.beginTick inp).fetched.pc.toNat ∧ (s.beginTick inp).fetched.pc.toNat ≤ 0x1000 := by
  rw [State.fetched_pc_toNat (s := s.beginTick inp) hr, State.beginTick_pc]
  rw [State.fetchInRange_iff] at hr
  omega

theorem tick_keeps_inv {inp : TickInput} (hs : s.Inv) (h : tick inp s = .next t) : t.Inv := by
  obtain ⟨-, ht⟩ | ⟨-, -, ht⟩ | ⟨e, -, hr, -, ht⟩ | ⟨i, hfault, hr, -, ht⟩ := tick_cases inp s
  · cases ht.symm.trans h
    exact hs
  · cases ht.symm.trans h
    refine hs.of_memory_stack_eq (by simp) (by simp) (by simp) hs.pcBound fun r hrec => ?_
    cases hrec
    exact .inl rfl
  · obtain ⟨-, hhi⟩ := State.fetched_pc_bounds hr inp
    cases ht.symm.trans h
    refine hs.of_memory_stack_eq (by simp) (by simp) (by simp) (hhi.trans (by decide)) fun r hrec => ?_
    cases hrec
    exact .inr rfl
  · obtain ⟨hlo, hhi⟩ := State.fetched_pc_bounds hr inp
    have hret : (s.beginTick inp).fetched.ReturnsBounded := State.ReturnsBounded.of_eq hs.returns (by simp) (by simp)
    exact exec_keeps_inv (by simpa using hs.memory) hret hlo hhi (by simpa using hfault) (ht.symm.trans h)

theorem resetState_inv : State.reset.Inv :=
  ⟨rfl, by decide, fun j hj => absurd hj (Nat.not_lt_zero _), fun r hr => by cases hr⟩

/-- A load writes memory alone, and keeps its canonical form. -/
theorem loadRom_keeps_inv {bytes : List Byte} (hs : s.Inv) (h : loadRom bytes s = .next t) : t.Inv := by
  obtain ⟨hmem, hbound, hret, hrec⟩ := hs
  have hwf : t.mem.wf = true := loadRom_mem_wf hmem h
  unfold loadRom at h
  split at h
  · split at h <;> cases h <;> exact ⟨hwf, hbound, hret, hrec⟩
  · cases h

end Moves

/-- Settles O12: the reset state by evaluation; its stack is empty and it has no fault. -/
theorem resetMeetsInvariant : Obligations.ResetMeetsInvariant := resetState_inv

/-- Settles O13: a step is a tick after an input has been taken from the host, which the invariant does not read. -/
theorem stepKeepsInvariant : Obligations.StepKeepsInvariant := fun s _ hs h =>
  tick_keeps_inv (hs.of_eq s.takeInput_mem s.takeInput_SP s.takeInput_stack s.takeInput_pc s.takeInput_fault) h

/-- Settles O14: reset by the invariant of the reset state, a load by the canonical form of memory, a tick as in a
step. -/
theorem hostMovesKeepInvariant : Obligations.HostMovesKeepInvariant := by
  intro m s t hs h
  cases m with
  | reset =>
    cases h
    exact resetState_inv.of_eq rfl rfl rfl rfl rfl
  | loadRom bytes => exact loadRom_keeps_inv hs h
  | tick inp => exact tick_keeps_inv hs h

end Sys2Proof.Machine
end

section
/-! PROOFS. The step and the run (40_tick_fetch_dispatch.md; 60_exceptions.md section 2; 70_reset_and_hazards.md): what
a step is, what a faulting tick leaves, the sticky latch, and the two states in which a core idles: at an `Fx0A` with no
key down, and at a jump to itself. -/

namespace Sys2Proof.Machine

section Frames
variable {s t u : State}

/-- Registers, `I`, the return stack, the screen and memory are as before: what a tick that runs no handler, or faults,
leaves alone. -/
def KeepsData (s t : State) : Prop :=
  KeepsRegsBut (fun _ => False) s t ∧ t.I = s.I ∧ KeepsStack s t ∧ KeepsScreen s t ∧ KeepsMemory s t

theorem keepsData_of_eq (hV : t.V = s.V) (hI : t.I = s.I) (hSP : t.SP = s.SP) (hstack : t.stack = s.stack)
    (hfb : t.fb = s.fb) (hmem : t.mem = s.mem) : KeepsData s t := by
  refine ⟨fun r _ => State.reg_eq_of_V hV r, hI, ⟨hSP, fun j => ?_⟩, fun y x => ?_, fun b => ?_⟩
  · rw [hstack]
  · rw [State.pixel, State.pixel, hfb]
  · rw [State.byte, State.byte, hmem]

theorem KeepsData.refl (s : State) : KeepsData s s := keepsData_of_eq rfl rfl rfl rfl rfl rfl

theorem KeepsData.trans (h : KeepsData s t) (h' : KeepsData t u) : KeepsData s u := by
  obtain ⟨hreg, hI, ⟨hSP, hstack⟩, hfb, hmem⟩ := h
  obtain ⟨hreg', hI', ⟨hSP', hstack'⟩, hfb', hmem'⟩ := h'
  exact ⟨fun r hr => (hreg' r hr).trans (hreg r hr), hI'.trans hI,
    ⟨hSP'.trans hSP, fun j => (hstack' j).trans (hstack j)⟩,
    fun y x => (hfb' y x).trans (hfb y x), fun b => (hmem' b).trans (hmem b)⟩

end Frames

section Tick
variable {inp : TickInput} {s t : State} {i : Instr}

/-- Every tick answers a next state: each of its four cases does. -/
theorem exists_tick_eq_next (inp : TickInput) (s : State) : ∃ t, tick inp s = .next t := by
  obtain ⟨-, h⟩ | ⟨-, -, h⟩ | ⟨e, -, -, -, h⟩ | ⟨i, -, -, -, h⟩ := tick_cases inp s
  · exact ⟨_, h⟩
  · exact ⟨_, h⟩
  · exact ⟨_, h⟩
  · obtain ⟨t, ht, -⟩ := exec_update i (s.beginTick inp).fetched
    exact ⟨t, h.trans ht⟩

/-- A tick that faults has run up to the fault and no further: to the fetch, or to the dispatch of the fetched word. -/
theorem tick_fault_cases (hs : s.fault = none) (h : tick inp s = .next t) (hf : t.fault ≠ none) :
    (s.fetchInRange = false ∧ t = (s.beginTick inp).raise .addressOutOfRange s.pc) ∨
    (s.fetchInRange = true ∧ ∃ c, t = (s.beginTick inp).fetched.raise c s.pc) := by
  obtain ⟨hne, -⟩ | ⟨-, hr, ht⟩ | ⟨e, -, hr, -, ht⟩ | ⟨i, -, hr, -, ht⟩ := tick_cases inp s
  · exact absurd hs hne
  · exact .inl ⟨hr, Host.Outcome.next.inj (h.symm.trans ht)⟩
  · exact .inr ⟨hr, _, Host.Outcome.next.inj (h.symm.trans ht)⟩
  · refine .inr ⟨hr, ?_⟩
    obtain ⟨c, -, hraise⟩ | ⟨-, heq⟩ := exec_faults_or_passes (ht.symm.trans h)
    · rw [State.raiseInHandler, State.fetched_pc_sub_two, State.beginTick_pc] at hraise
      exact ⟨c, hraise⟩
    · rw [State.fetched_fault, State.beginTick_fault] at heq
      exact absurd (heq.trans hs) hf

/-- A fault raised by a tick leaves the data alone. -/
theorem keepsData_beginTick_raise (c : FaultCause) (a : Word) : KeepsData s ((s.beginTick inp).raise c a) := by
  apply keepsData_of_eq <;> simp

theorem keepsData_fetched_raise (c : FaultCause) (a : Word) : KeepsData s ((s.beginTick inp).fetched.raise c a) := by
  apply keepsData_of_eq <;> simp

/-- A faulting tick leaves the data alone (R216, R219). -/
theorem tick_fault_keepsData (hs : s.fault = none) (h : tick inp s = .next t) (hf : t.fault ≠ none) :
    KeepsData s t := by
  obtain ⟨-, rfl⟩ | ⟨-, c, rfl⟩ := tick_fault_cases hs h hf
  · exact keepsData_beginTick_raise _ _
  · exact keepsData_fetched_raise c _

theorem keepsData_takeInput (s : State) : KeepsData s s.takeInput := by
  apply keepsData_of_eq <;> simp

/-- The fetch cannot read at 0xFFF or above (R94). -/
theorem State.fetchInRange_eq_false_iff (s : State) : s.fetchInRange = false ↔ 0xFFF ≤ s.pc.toNat := by
  rw [← Bool.not_eq_true, State.fetchInRange_iff]
  omega

/-- The state a handler is entered at, field by field (R99). -/
theorem State.fetched_beginTick_eq (s : State) (inp : TickInput) : (s.beginTick inp).fetched =
    { s with
      key := inp.keys
      DT := countDown s.DT
      ST := countDown s.ST
      opcode := s.fetchWord
      pc := s.pc + 2
      host := { s.host with rnd := inp.rnd, boot := .running } } := by
  simp only [State.fetched, State.beginTick, State.decrementTimers, State.latchKeys, State.presentPorts, State.setHost,
    State.setKeys, State.setDT, State.setST, State.setOpcode, State.setPc, State.fetchWord]

/-- A step of a core that is not halted runs the decoded word's handler (R99). -/
theorem step_eq_exec (hs : s.fault = none) (hr : s.fetchInRange = true) (hd : decode s.fetchWord = .ok i) :
    step s = exec i (s.takeInput.beginTick s.nextInput).fetched :=
  tick_exec (by rwa [State.takeInput_fault]) (by rwa [State.fetchInRange_takeInput])
    (by rwa [State.fetchWord_takeInput])

theorem step_halted (hs : s.fault ≠ none) : step s = .next s := by
  rw [step, State.takeInput_of_halted hs, tick_halted hs]

end Tick

/-- Settles O15: the state a handler is entered at is the one written out, once the input has been taken. -/
theorem stepRunsDecodedInstruction : Obligations.StepRunsDecodedInstruction := by
  intro s i hs hpc hd
  have hword : decode s.fetchWord = .ok i := by
    simp only [decodeBytes] at hd
    split at hd <;> cases hd
    assumption
  rw [step_eq_exec hs (s.fetchInRange_iff.2 hpc) hword, State.fetched_beginTick_eq, State.fetchWord_takeInput,
    State.takeInput_of_running hs]
  simp only [State.setHost, State.fetchWord, State.byte]
  rfl

/-- Settles O18: the tick is the fetch fault, after the keypad latch and the timers. -/
theorem fetchOutOfRangeFaults : Obligations.FetchOutOfRangeFaults := by
  intro inp s hs hpc
  refine ⟨_, tick_fetch_fault hs (s.fetchInRange_eq_false_iff.2 hpc), ?_, ?_, ?_, ?_, ?_, ?_,
    keepsData_beginTick_raise _ _⟩
  · rw [State.raise_fault, State.beginTick_opcode]
  · rw [State.raise_pc, State.beginTick_pc]
  · rw [State.raise_opcode, State.beginTick_opcode]
  · rw [State.raise_key, State.beginTick_key]
  · rw [State.raise_DT, State.beginTick_DT, countDown_toNat]
  · rw [State.raise_ST, State.beginTick_ST, countDown_toNat]

/-- Settles O20: the first test of a tick, and of taking an input, is the fault latch. -/
theorem haltedTickDoesNothing : Obligations.HaltedTickDoesNothing := fun _ _ hs => ⟨tick_halted hs, step_halted hs⟩

/-- Settles O21: a step is a tick. -/
theorem stepAlwaysCompletes : Obligations.StepAlwaysCompletes := fun s => exists_tick_eq_next s.nextInput s.takeInput

/-- Settles O23: a faulting tick has run up to the fetch or to the dispatch, and neither part of it writes data. -/
theorem faultingTickIsPrecise : Obligations.FaultingTickIsPrecise := by
  intro s t r hs h hr
  have hf : t.fault ≠ none := by simp [hr]
  have hs' : s.takeInput.fault = none := by rwa [State.takeInput_fault]
  have hdata : KeepsData s t := (keepsData_takeInput s).trans (tick_fault_keepsData hs' h hf)
  obtain ⟨hrange, rfl⟩ | ⟨hrange, c, rfl⟩ := tick_fault_cases hs' h hf
  all_goals
    rw [State.raise_fault, State.takeInput_pc] at hr
    rw [State.fetchInRange_takeInput] at hrange
    obtain rfl := Option.some.inj hr
  · rw [State.fetchInRange_eq_false_iff] at hrange
    refine ⟨rfl, (State.raise_opcode _ _ _).symm, .inl ⟨rfl, hrange, ?_, ?_⟩, hdata⟩
    · rw [State.raise_pc, State.beginTick_pc, State.takeInput_pc]
    · rw [State.raise_opcode, State.beginTick_opcode, State.takeInput_opcode]
  · rw [State.fetchInRange_iff] at hrange
    refine ⟨rfl, (State.raise_opcode _ _ _).symm, .inr ⟨by omega, ?_, ?_⟩, hdata⟩
    · rw [State.raise_pc, State.fetched_pc, State.beginTick_pc, State.takeInput_pc]
    · rw [State.raise_opcode, State.fetched_opcode, State.fetchWord_beginTick, State.fetchWord_takeInput]

section Runs
variable {s : State} {n : Nat}

/-- A halted core stays as it is for any number of ticks (R100, R217). -/
theorem core_run_halted (hs : s.fault ≠ none) (n : Nat) : core.run n s = .next s := by
  induction n with
  | zero => rfl
  | succ n ih => rw [core_run_succ (step_halted hs), ih]

/-- A safe run starts with no fault: the latch is sticky. -/
theorem SafeRun.fault_eq_none (h : SafeRun n s) : s.fault = none := by
  obtain ⟨t, ht, hsafe⟩ := h
  by_contra hs
  cases (core_run_halted hs n).symm.trans ht
  exact hs (Option.not_isSome_iff_eq_none.1 (Bool.eq_false_iff.1 hsafe))

end Runs

/-- Settles O22, by induction on the number of ticks: what is left of a safe run after its first tick is a safe run. -/
theorem safeRunNeverFaulted : Obligations.SafeRunNeverFaulted := by
  intro n k s hsafe hk
  induction k generalizing n s with
  | zero => exact ⟨s, rfl, hsafe.fault_eq_none⟩
  | succ k ih =>
    obtain ⟨m, rfl⟩ := Nat.exists_eq_add_of_le' (Nat.one_le_of_lt hk)
    obtain ⟨t, ht⟩ := stepAlwaysCompletes s
    have hrest : SafeRun m t := by
      obtain ⟨u, hu, hend⟩ := hsafe
      exact ⟨u, (core_run_succ ht).symm.trans hu, hend⟩
    rw [core_run_succ ht]
    exact ih m t hrest (Nat.le_of_succ_le_succ hk)

section Idling
variable {s t u : State} {n : Nat}

/-- After `n` ticks the core is where it was, with no fault: `pc` and the data are as before and each timer has counted
down `n` times. -/
structure IdleTicks (n : Nat) (s t : State) : Prop where
  pc : t.pc = s.pc
  fault : t.fault = none
  delay : t.DT.toNat = s.DT.toNat - n
  sound : t.ST.toNat = s.ST.toNat - n
  data : KeepsData s t

theorem IdleTicks.zero (hs : s.fault = none) : IdleTicks 0 s s := ⟨rfl, hs, rfl, rfl, KeepsData.refl s⟩

theorem IdleTicks.succ (h : IdleTicks 1 s t) (h' : IdleTicks n t u) : IdleTicks (n + 1) s u where
  pc := h'.pc.trans h.pc
  fault := h'.fault
  delay := by rw [h'.delay, h.delay, Nat.sub_sub, Nat.add_comm]
  sound := by rw [h'.sound, h.sound, Nat.sub_sub, Nat.add_comm]
  data := h.data.trans h'.data

/-- An idling core fetches the same word again. -/
theorem IdleTicks.fetchWord_eq (h : IdleTicks n s t) : t.fetchWord = s.fetchWord := by
  obtain ⟨-, -, -, -, hmem⟩ := h.data
  have hbyte : ∀ b, t.mem.read b = s.mem.read b := hmem
  rw [State.fetchWord, State.fetchWord, h.pc, hbyte, hbyte]

theorem IdleTicks.fetchInRange_eq (h : IdleTicks n s t) : t.fetchInRange = s.fetchInRange := by
  rw [State.fetchInRange, State.fetchInRange, h.pc]

/-- A step whose handler only puts `pc` back to the instruction's own address is an idle tick. -/
theorem idleTicks_one (hs : s.fault = none) :
    IdleTicks 1 s ((s.takeInput.beginTick s.nextInput).fetched.setPc s.pc) where
  pc := rfl
  fault := by simpa using hs
  delay := by simp [countDown_toNat]
  sound := by simp [countDown_toNat]
  data := by apply keepsData_of_eq <;> simp

/-- Parked (R250): no fault, and the word at `pc`, which the fetch can read, is the jump to `pc`. -/
theorem State.parked_iff (s : State) :
    s.parked = true ↔ s.fault = none ∧ s.fetchInRange = true ∧ s.fetchWord = packA 0x1 (s.pc.setWidth 12) := by
  simp only [State.parked, Bool.and_eq_true, Option.isNone_iff_eq_none, beq_iff_eq, and_assoc]

theorem IdleTicks.parked (h : IdleTicks n s t) (hs : s.parked = true) : t.parked = true := by
  obtain ⟨-, hr, hw⟩ := s.parked_iff.1 hs
  exact t.parked_iff.2 ⟨h.fault, h.fetchInRange_eq.trans hr, by rw [h.fetchWord_eq, hw, h.pc]⟩

/-- The target of the jump to itself is `pc` again: `pc` fits in 12 bits, because the fetch can read there. -/
theorem State.jpTarget_self (hr : s.fetchInRange = true) : (s.pc.setWidth 12).zeroExtend 16 = s.pc := by
  rw [State.fetchInRange_iff] at hr
  apply BitVec.eq_of_toNat_eq
  rw [toNat_jpTarget, BitVec.toNat_setWidth]
  omega

/-- A step of a parked core is the jump to its own address. -/
theorem step_parked (h : s.parked = true) : ∃ t, step s = .next t ∧ IdleTicks 1 s t := by
  obtain ⟨hs, hr, hw⟩ := s.parked_iff.1 h
  have hd : decode s.fetchWord = .ok (.jp (s.pc.setWidth 12)) := by rw [hw, decode_packA_jp]
  refine ⟨_, ?_, idleTicks_one hs⟩
  rw [step_eq_exec hs hr hd]
  simp only [exec, execJp, State.jpTarget_self hr]

/-- The input of the next tick is the first of the queue. -/
theorem State.nextInput_of_cons {inp : TickInput} {rest : List TickInput} (h : s.host.inputs = inp :: rest) :
    s.nextInput = inp := by
  rw [State.nextInput, h]

/-- A step at an `Fx0A`, when the host presents no key, goes back to the instruction, with one input taken. -/
theorem step_keyWait {x : RegIdx} {inp : TickInput} {rest : List TickInput} (hs : s.fault = none)
    (hr : s.fetchInRange = true) (hd : decode s.fetchWord = .ok (.ldVxK x)) (hq : s.host.inputs = inp :: rest)
    (hk : inp.keys = noKeys) : ∃ t, step s = .next t ∧ IdleTicks 1 s t ∧ t.host.inputs = rest := by
  have hscan : (s.takeInput.beginTick s.nextInput).fetched.firstKey = none := by
    rw [State.firstKey_none, State.fetched_key, State.beginTick_key, State.nextInput_of_cons hq, hk]
    decide
  refine ⟨_, ?_, idleTicks_one hs, ?_⟩
  · rw [step_eq_exec hs hr hd]
    refine (execLdVxK_waits _ x hscan).trans ?_
    rw [State.fetched_pc_sub_two, State.beginTick_pc, State.takeInput_pc]
  · rw [State.takeInput_of_running hs]
    exact congrArg List.tail hq

end Idling

/-- Settles O59, by induction on the number of ticks: each is an idle tick, and leaves the core parked. -/
theorem parkedStaysParked : Obligations.ParkedStaysParked := by
  intro n s h
  have hrun : ∃ t, core.run n s = .next t ∧ IdleTicks n s t := by
    induction n generalizing s with
    | zero => exact ⟨s, rfl, .zero (s.parked_iff.1 h).1⟩
    | succ n ih =>
      obtain ⟨t, ht, hidle⟩ := step_parked h
      obtain ⟨u, hu, hrest⟩ := ih t (hidle.parked h)
      exact ⟨u, (core_run_succ ht).trans hu, hidle.succ hrest⟩
  obtain ⟨t, ht, hidle⟩ := hrun
  exact ⟨t, ht, hidle.parked h, hidle.pc, hidle.delay, hidle.sound, hidle.data⟩

/-- Settles O58, by induction on the inputs of the wait: each is taken by an idle tick, which leaves the others. -/
theorem keyWaitRepeatsWhileNoKey : Obligations.KeyWaitRepeatsWhileNoKey := by
  intro x waits rest s hs hr hd hq hkeys
  have hrun : ∃ t, core.run waits.length s = .next t ∧ IdleTicks waits.length s t := by
    induction waits generalizing s with
    | nil => exact ⟨s, rfl, .zero hs⟩
    | cons inp waits ih =>
      obtain ⟨hk, hkeys⟩ := List.forall_mem_cons.1 hkeys
      obtain ⟨t, ht, hidle, hq'⟩ := step_keyWait hs hr hd hq hk
      have hd' : decode t.fetchWord = .ok (.ldVxK x) := by rwa [hidle.fetchWord_eq]
      obtain ⟨u, hu, hrest⟩ := ih t hidle.fault (hidle.fetchInRange_eq.trans hr) hd' hq' hkeys
      exact ⟨u, (core_run_succ ht).trans hu, hidle.succ hrest⟩
  obtain ⟨t, ht, hidle⟩ := hrun
  exact ⟨t, ht, hidle.pc, hidle.fault, hidle.delay, hidle.sound, hidle.data⟩

end Sys2Proof.Machine
end

section
/-! PROOFS. Reset, the loader and the output ports (10_state.md section 9; 60_exceptions.md sections 1 and 4;
70_reset_and_hazards.md sections 1 and 2): the reset contents of RAM, the three answers of a load, and the codes. -/

namespace Sys2Proof.Machine

section ResetContents

/-- The font area reads the parameter FONT (20_memory.md R59). -/
theorem Memory.resetByte_font (j : Nat) : Memory.resetByte (0x050 + j) = font.getD j 0 := by
  rw [Memory.resetByte, if_pos (Nat.le_add_right _ _), Nat.add_sub_cancel_left]

/-- Everything outside the font area reads 0. -/
theorem Memory.resetByte_outside_font {a : Nat} (h : ¬ (0x050 ≤ a ∧ a < 0x0A0)) : Memory.resetByte a = 0 := by
  rw [Memory.resetByte]
  split
  case isFalse => rfl
  case isTrue hlo =>
    have hlen : font.length = 80 := rfl
    simp only [Config.fontStart] at hlo ⊢
    exact List.getD_eq_default _ _ (by omega)

theorem State.reset_reg (r : RegIdx) : State.reset.reg r = 0 := by
  simp only [State.reg, State.reset, Fin.getElem_fin, Vector.getElem_replicate]

theorem State.reset_stack (j : Fin 16) : State.reset.stack[j] = 0 := by
  simp only [State.reset, Fin.getElem_fin, Vector.getElem_replicate]

theorem State.reset_key (k : Fin 16) : State.reset.key[k] = false := by
  simp only [State.reset, noKeys, Fin.getElem_fin, Vector.getElem_replicate]

end ResetContents

/-- Settles O8: the reset state row by row; RAM lists no cell, so it reads as its reset contents. -/
theorem resetValues : Obligations.ResetValues :=
  ⟨State.reset_reg, rfl, rfl, rfl, State.reset_stack, rfl, rfl, rfl, State.reset_key, blankScreen_pixel,
    fun j _ => Memory.resetByte_font j, fun _ h => Memory.resetByte_outside_font h, rfl⟩

/-- Settles O9: reset takes nothing from the state but the host's inputs to come. -/
theorem resetFromAnyState : Obligations.ResetFromAnyState := fun _ => ⟨rfl, rfl, rfl⟩

/-- Settles O10: an image that fits is a store of consecutive bytes, one that does not is a write of the host's
record. -/
theorem loadRomCopiesImage : Obligations.LoadRomCopiesImage := by
  refine fun bytes s hboot => ⟨fun hlen => ⟨_, loadRom_fits hboot hlen, fun a => ?_, rfl, rfl⟩,
    fun hlen => ⟨_, loadRom_tooLarge hboot hlen, rfl, rfl, rfl⟩⟩
  exact Memory.read_writeBytes s.mem 0x200 a bytes

section Boot
variable {s t : State}

theorem loadRom_boot_ne {bytes : List Byte} (h : loadRom bytes s = .next t) : t.host.boot ≠ .afterReset := by
  unfold loadRom at h
  split at h
  · split at h <;> cases h <;> nofun
  · cases h

/-- A tick of a core that is not halted has the core running: presenting the ports says so, and no handler writes the
host's record. -/
theorem tick_boot_eq {inp : TickInput} (hs : s.fault = none) (h : tick inp s = .next t) : t.host.boot = .running := by
  obtain ⟨hne, -⟩ | ⟨-, -, ht⟩ | ⟨e, -, -, -, ht⟩ | ⟨i, -, -, -, ht⟩ := tick_cases inp s
  · exact absurd hs hne
  · cases ht.symm.trans h
    rw [State.raise_host, State.beginTick_host]
  · cases ht.symm.trans h
    rw [State.raise_host, State.fetched_host, State.beginTick_host]
  · obtain ⟨-, -, hhost⟩ := (handlerUpdate_of_exec (ht.symm.trans h)).keepsLatches
    rw [hhost, State.fetched_host, State.beginTick_host]

end Boot

/-- Settles O11: a load and a tick of a running core each leave the place of a load, and reset goes back to it. -/
theorem loadRomOnlyBeforeFirstTick : Obligations.LoadRomOnlyBeforeFirstTick :=
  ⟨fun _ _ h => loadRom_outsideBoot h, fun _ _ _ h => loadRom_boot_ne h,
    fun _ _ _ hs h => by rw [tick_boot_eq hs h]; nofun, fun _ => rfl⟩

section Ports
variable (s : State)

theorem soundOn_iff : soundOn s = true ↔ 0 < s.ST.toNat := decide_eq_true_iff

theorem faultCause_of_fault {s : State} {r : FaultRecord} (h : s.fault = some r) : faultCause s = r.cause.code := by
  rw [faultCause, h]

theorem FaultCause.code_ne_zero (c : FaultCause) : c.code ≠ 0 := by cases c <;> decide

/-- Different causes show different codes (R210). -/
theorem FaultCause.code_inj {c d : FaultCause} : c.code = d.code ↔ c = d := by
  cases c <;> cases d <;> simp [FaultCause.code]

theorem faultCause_eq_zero_iff : faultCause s = 0 ↔ s.fault = none := by
  cases h : s.fault with
  | none => simp [faultCause, h]
  | some r => simp [faultCause_of_fault h, r.cause.code_ne_zero]

theorem loadErr_eq_zero_iff : loadErr s = 0 ↔ s.host.loadErr = none := by
  cases h : s.host.loadErr with
  | none => simp [loadErr, h]
  | some e => cases e; simp [loadErr, h, LoadError.code]

theorem loadErr_eq_four_iff : loadErr s = 4 ↔ s.host.loadErr = some .romTooLarge := by
  cases h : s.host.loadErr with
  | none => simp [loadErr, h]
  | some e => cases e; simp [loadErr, h, LoadError.code]

end Ports

/-- Settles O60: each port reads one piece of state, and the codes tell the causes apart. -/
theorem outputPorts : Obligations.OutputPorts := by
  refine fun s => ⟨rfl, soundOn_iff s, faultCause_eq_zero_iff s, loadErr_eq_zero_iff s, loadErr_eq_four_iff s,
    fun r hr => ?_⟩
  have hcode : ∀ c : FaultCause, (outputs s).faultCause = c.code ↔ r.cause = c := by
    intro c
    rw [← FaultCause.code_inj, ← faultCause_of_fault hr]
    rfl
  exact ⟨congrArg (Option.map _) hr, congrArg (Option.map _) hr, hcode .unknownOpcode, hcode .stackUnderflow,
    hcode .stackOverflow, hcode .addressOutOfRange⟩

end Sys2Proof.Machine
end

section
/-! PROOFS. The return stack and the data accesses (41_control_flow.md; 42_alu.md, `Cxkk`; 43_index_memory.md): what
CALL and RET do to a slot, what the two stores put in memory and the load takes from it, and each load after its store
(R51, R111, R113, R119, R146, R165 to R168). -/

namespace Sys2Proof.Machine

section Stack
variable (s : State) (w : Word)

theorem State.onlyPcStack_popPc (h : 0 < s.SP.val) : OnlyPcStack s (s.popPc h) :=
  ⟨fun r _ => State.reg_popPc s h r, rfl, ⟨rfl, rfl⟩, fun _ _ => rfl, fun _ => rfl, ⟨rfl, rfl, rfl⟩, rfl⟩

theorem State.onlyPcStack_pushPc_setPc (h : s.SP.val < 16) : OnlyPcStack s ((s.pushPc h).setPc w) :=
  ⟨fun r _ => State.reg_pushPc s h r, rfl, ⟨rfl, rfl⟩, fun _ _ => rfl, fun _ => rfl, ⟨rfl, rfl, rfl⟩, rfl⟩

theorem State.pushPc_slot (h : s.SP.val < 16) (j : Fin 16) :
    (s.pushPc h).stack[j] = if j.val = s.SP.val then s.pc else s.stack[j] := by
  simp only [State.pushPc_stack, Fin.getElem_fin, Vector.getElem_set, eq_comm]

theorem State.popPc_pc_of_SP_eq {j : Fin 16} (hj : s.SP.val = j.val + 1) (h : 0 < s.SP.val) :
    (s.popPc h).pc = s.stack[j] := by
  simp only [State.popPc_pc, Fin.getElem_fin, hj, Nat.add_sub_cancel]

end Stack

/-- Settles O29: below 16 the call is a push and a jump; at 16 its check fails. -/
theorem callPushesReturnAddress : Obligations.CallPushesReturnAddress := fun s nnn =>
  ⟨fun h => ⟨_, execCall_pushes s nnn h, toNat_jpTarget nnn, rfl, s.pushPc_slot h,
      s.onlyPcStack_pushPc_setPc _ h⟩,
    fun h => (CheckFails.fullStack nnn h).takesFault⟩

/-- Settles O30: above 0 the return is a pop, of the slot below SP; at 0 its check fails. -/
theorem retPopsReturnAddress : Obligations.RetPopsReturnAddress := by
  refine fun s => ⟨fun j hj => ?_, fun h => (CheckFails.emptyStack h).takesFault⟩
  have hpos : 0 < s.SP.val := by omega
  exact ⟨_, execRet_pops s hpos, Nat.sub_eq_of_eq_add hj, s.popPc_pc_of_SP_eq hj hpos, fun _ => rfl,
    s.onlyPcStack_popPc hpos⟩

/-- Settles O31: the call leaves SP one above the slot it wrote, which is the slot a return then reads. -/
theorem callThenRetReturns : Obligations.CallThenRetReturns := by
  intro s nnn h
  obtain ⟨t, ht, -, hSP, hslot, -⟩ := (callPushesReturnAddress s nnn).1 h
  refine ⟨t, ht, fun u huSP hustack => ?_⟩
  obtain ⟨v, hv, hvSP, hvpc, -⟩ := (retPopsReturnAddress u).1 ⟨s.SP.val, h⟩ (by rw [huSP, hSP])
  refine ⟨v, hv, ?_, Fin.ext hvSP⟩
  rw [hvpc, hustack, hslot, if_pos rfl]

/-- Settles O39: a single register write, of the masked byte on the random port. -/
theorem randomByteIsMasked : Obligations.RandomByteIsMasked := by
  refine fun s x kk => ⟨_, rfl, fun k => ?_, State.onlyRegs_setReg s x _⟩
  rw [State.reg_setReg_same, BitVec.getLsbD_and]

section Data
variable (s : State)

/-- A store of data changes its own bytes and nothing else (43_index_memory.md R160). -/
theorem State.onlyMemory_storeData {bs : List Byte} {n : Nat} (hn : bs.length = n) :
    OnlyMemory s.I.toNat n s (s.storeData bs) :=
  ⟨fun _ hb => Memory.read_writeBytes_outside _ _ _ _ (hn ▸ hb), fun r _ => State.reg_storeData s bs r, rfl, rfl,
    ⟨rfl, fun _ => rfl⟩, ⟨rfl, rfl⟩, fun _ _ => rfl, ⟨rfl, rfl, rfl⟩, rfl⟩

theorem State.byte_storeData {bs : List Byte} {k : Nat} (hk : k < bs.length) :
    (s.storeData bs).byte (s.I.toNat + k) = bs.getD k 0 := by
  have hin : s.dataAddr 0 ≤ s.I.toNat + k ∧ s.I.toNat + k < s.dataAddr 0 + bs.length := by
    rw [State.dataAddr]
    omega
  rw [State.byte, State.read_storeData, if_pos hin, State.dataAddr, Nat.add_zero, Nat.add_sub_cancel_left]

/-- A load changes the registers it fills and nothing else. -/
theorem State.onlyRegs_loadRegs (x : RegIdx) : OnlyRegs (· ≤ x) s (s.setRegsFrom 0 (s.dataBytes (x.val + 1))) := by
  refine ⟨fun r hr => ?_, State.setRegsFrom_pc s _ _, State.setRegsFrom_I s _ _,
    ⟨State.setRegsFrom_SP s _ _, fun j => ?_⟩, ⟨State.setRegsFrom_DT s _ _, State.setRegsFrom_ST s _ _⟩, fun y x => ?_,
    fun b => ?_, ⟨State.setRegsFrom_opcode s _ _, State.setRegsFrom_key s _ _, State.setRegsFrom_host s _ _⟩,
    State.setRegsFrom_fault s _ _⟩
  · have hx : x.val < r.val := not_le.1 hr
    rw [State.reg_setRegsFrom, if_neg (by rw [State.length_dataBytes]; omega)]
  · rw [State.setRegsFrom_stack]
  · rw [State.pixel, State.setRegsFrom_fb, State.pixel]
  · rw [State.byte, State.setRegsFrom_mem, State.byte]

theorem State.reg_loadRegs {x r : RegIdx} (hr : r ≤ x) :
    (s.setRegsFrom 0 (s.dataBytes (x.val + 1))).reg r = s.byte (s.I.toNat + r.val) := by
  have hlt : r.val < x.val + 1 := Nat.lt_succ_of_le hr
  rw [State.reg_setRegsFrom, if_pos (by rw [State.length_dataBytes]; omega), Nat.sub_zero,
    State.dataBytes_getD _ _ _ hlt, State.byte]

end Data

section Digits
variable (v : Byte)

/-- The three digits of a byte as numbers: each is below 256, so none is cut (R165). -/
theorem toNat_hundreds : ((bcdDigits v).getD 0 0).toNat = v.toNat / 100 :=
  Nat.mod_eq_of_lt ((Nat.div_le_self _ _).trans_lt v.isLt)

theorem toNat_tens : ((bcdDigits v).getD 1 0).toNat = v.toNat / 10 % 10 :=
  Nat.mod_eq_of_lt ((Nat.mod_lt _ (by decide)).trans (by decide))

theorem toNat_ones : ((bcdDigits v).getD 2 0).toNat = v.toNat % 10 :=
  Nat.mod_eq_of_lt ((Nat.mod_lt _ (by decide)).trans (by decide))

end Digits

/-- Settles O44: the handler stores the three digits, and hundreds, tens and ones make up the number. -/
theorem bcdStoresDigits : Obligations.BcdStoresDigits := by
  intro s x h
  have hlen : (bcdDigits (s.reg x)).length = 3 := length_bcdDigits _
  have hhundreds := s.byte_storeData (k := 0) (by rw [hlen]; decide)
  have htens := s.byte_storeData (k := 1) (by rw [hlen]; decide)
  have hones := s.byte_storeData (k := 2) (by rw [hlen]; decide)
  rw [Nat.add_zero] at hhundreds
  refine ⟨_, execLdB_stores s x ((s.dataInRange_succ 2).2 h), ?_, ?_, ?_, ?_, s.onlyMemory_storeData hlen⟩
  · rw [hhundreds, toNat_hundreds]
  · rw [htens, toNat_tens]
  · rw [hones, toNat_ones]
  · rw [hhundreds, htens, hones, toNat_hundreds, toNat_tens, toNat_ones]
    omega

/-- Settles O45: the handler stores the values of `V[0]` to `V[x]`. -/
theorem storeRegistersInMemory : Obligations.StoreRegistersInMemory := by
  refine fun s x h => ⟨_, execStoreRegs_stores s x ((s.dataInRange_succ _).2 h), fun r hr => ?_,
    s.onlyMemory_storeData (s.length_regsUpTo x)⟩
  rw [State.byte_storeData _ (by rw [State.length_regsUpTo]; exact Nat.lt_succ_of_le hr), State.regsUpTo_getD s x r hr]

/-- Settles O46: the handler fills `V[0]` to `V[x]` with the bytes at `I`. -/
theorem loadRegistersFromMemory : Obligations.LoadRegistersFromMemory := fun s x h =>
  ⟨_, execLoadRegs_loads s x ((s.dataInRange_succ _).2 h), fun _ hr => s.reg_loadRegs hr, s.onlyRegs_loadRegs x⟩

/-- Settles O47: the load reads the three bytes the store has put, which are the digits. -/
theorem bcdThenLoadRecoversDigits : Obligations.BcdThenLoadRecoversDigits := by
  intro s x h
  obtain ⟨t, ht, hhundreds, htens, hones, -, -, -, -, hI, -⟩ := bcdStoresDigits s x h
  refine ⟨t, ht, fun u humem huI => ?_⟩
  have haddr : u.I.toNat = s.I.toNat := by rw [huI, hI]
  have hbyte : ∀ b, u.byte b = t.byte b := fun b => by rw [State.byte, humem, State.byte]
  obtain ⟨v, hv, hreg, -⟩ := loadRegistersFromMemory u 2 (by rw [haddr]; exact h)
  refine ⟨v, hv, ?_, ?_, ?_⟩
  · rw [hreg 0 (by decide), haddr, hbyte, ← hhundreds]; rfl
  · rw [hreg 1 (by decide), haddr, hbyte, ← htens]; rfl
  · rw [hreg 2 (by decide), haddr, hbyte, ← hones]; rfl

/-- Settles O48: the load reads the bytes the store has put, which are the registers. -/
theorem storeThenLoadRestoresRegisters : Obligations.StoreThenLoadRestoresRegisters := by
  intro s x h
  obtain ⟨t, ht, hstored, -⟩ := storeRegistersInMemory s x h
  refine ⟨t, ht, fun u humem huI => ?_⟩
  obtain ⟨v, hv, hreg, -⟩ := loadRegistersFromMemory u x (by rw [huI]; exact h)
  refine ⟨v, hv, fun r hr => ?_⟩
  rw [hreg r hr, huI, State.byte, humem, ← hstored r hr, State.byte]

/-- Settles O24: the two bytes at `pc` are those of `V[k]` and the register after it, both in range. -/
theorem storedBytesAreFetchedNext : Obligations.StoredBytesAreFetchedNext := by
  intro s x k k' hk hk' h hpc
  obtain ⟨t, ht, hstored, -, -, htpc, -⟩ := storeRegistersInMemory s x h
  have hle : k'.val ≤ x.val := hk'
  have hfirst := hstored k (show k.val ≤ x.val by omega)
  have hsecond := hstored k' hk'
  rw [hpc, State.byte] at hfirst
  rw [hk, ← Nat.add_assoc, hpc, State.byte] at hsecond
  refine ⟨t, ht, ?_, ?_⟩
  · rw [State.fetchInRange_iff, htpc]
    omega
  · rw [State.fetchWord, htpc, hfirst, hsecond]

end Sys2Proof.Machine
end

section
/-! PROOFS. Which instructions read an input port and which write VF (10_state.md R21, R22, R31; 60_exceptions.md
R229). -/

namespace Sys2Proof.Machine

section Ports
variable {s t : State} (k : Keypad) (hs : HostSide)

/-- A load of registers goes the same way under other inputs. -/
theorem State.setRegsFrom_setKeys_setHost (s : State) (j : Nat) (bs : List Byte) :
    ((s.setKeys k).setHost hs).setRegsFrom j bs = ((s.setRegsFrom j bs).setKeys k).setHost hs := by
  induction bs generalizing s j with
  | nil => rfl
  | cons b bs ih => exact ih { s with V := s.V.setIfInBounds j b } (j + 1)

/-- No instruction but the four named reads the keypad latch or the host's side: under other inputs the handler answers
the same state, but for those inputs themselves. -/
theorem exec_setKeys_setHost {i : Instr} (hrnd : ∀ x kk, i ≠ .rnd x kk)
    (hkey : ∀ x, i ≠ .skp x ∧ i ≠ .sknp x ∧ i ≠ .ldVxK x) (h : exec i s = .next t) :
    exec i ((s.setKeys k).setHost hs) = .next ((t.setKeys k).setHost hs) := by
  cases i with
  | rnd x kk => exact absurd rfl (hrnd x kk)
  | skp x | sknp x | ldVxK x =>
    obtain ⟨hskp, hsknp, hldVxK⟩ := hkey x
    contradiction
  | seImm | sneImm | seReg | sneReg =>
    cases h
    simp only [exec, execSeImm, execSneImm, execSeReg, execSneReg, State.skipIf_eq_setPc]
    rfl
  | ret | call =>
    simp only [exec, execRet, execCall] at h
    split at h <;> cases h
    case isTrue.refl hpass => exact dif_pos hpass
    case isFalse.refl hfail => exact dif_neg hfail
  | drw | ldB | storeRegs =>
    simp only [exec, execDrw, execLdB, execStoreRegs] at h
    split at h <;> cases h
    case isTrue.refl hpass => exact if_pos hpass
    case isFalse.refl hfail => exact if_neg hfail
  | loadRegs x =>
    simp only [exec, execLoadRegs] at h
    split at h <;> cases h
    case isTrue.refl hpass =>
      rw [← State.setRegsFrom_setKeys_setHost]
      exact if_pos hpass
    case isFalse.refl hfail => exact if_neg hfail
  | _ =>
    cases h
    rfl

/-- The key instructions read the latch, and none of them the host's side. -/
theorem exec_setHost_of_key_instruction {i : Instr} {x : RegIdx} (hi : i = .skp x ∨ i = .sknp x ∨ i = .ldVxK x)
    (h : exec i s = .next t) : exec i (s.setHost hs) = .next (t.setHost hs) := by
  obtain rfl | rfl | rfl := hi
  · cases h
    simp only [exec, execSkp, State.skipIf_eq_setPc]
    rfl
  · cases h
    simp only [exec, execSknp, State.skipIf_eq_setPc]
    rfl
  · cases hk : s.firstKey with
    | none =>
      cases (execLdVxK_waits s x hk).symm.trans h
      exact execLdVxK_waits (s.setHost hs) x hk
    | some k =>
      cases (execLdVxK_found s x hk).symm.trans h
      exact execLdVxK_found (s.setHost hs) x hk

end Ports

/-- Settles O40: an instruction that is not `Cxkk` reads at most the keypad latch, which is the same in both runs. -/
theorem onlyRndReadsTheRandomByte : Obligations.OnlyRndReadsTheRandomByte := by
  intro i s t r hrnd h
  obtain ⟨-, hkey, hhost⟩ := (handlerUpdate_of_exec h).keepsLatches
  by_cases hi : ∃ x, i = .skp x ∨ i = .sknp x ∨ i = .ldVxK x
  · obtain ⟨x, hi⟩ := hi
    rw [← hhost]
    exact exec_setHost_of_key_instruction _ hi h
  · have hother : ∀ x, i ≠ .skp x ∧ i ≠ .sknp x ∧ i ≠ .ldVxK x := by
      simpa only [not_exists, not_or] using hi
    have hsame : { s with host := { s.host with rnd := r } } =
        (s.setKeys t.key).setHost { t.host with rnd := r } := by rw [hkey, hhost]; rfl
    rw [hsame]
    exact exec_setKeys_setHost _ _ hrnd hother h

/-- Settles O41: an instruction that does not read the keypad latch reads at most the random byte, which is the same in
both runs. -/
theorem onlyKeyInstructionsReadTheKeypad : Obligations.OnlyKeyInstructionsReadTheKeypad := by
  intro i s t k hkey h
  obtain ⟨-, -, hhost⟩ := (handlerUpdate_of_exec h).keepsLatches
  by_cases hi : ∃ x kk, i = .rnd x kk
  · obtain ⟨x, kk, rfl⟩ := hi
    cases h
    rfl
  · have hother : ∀ x kk, i ≠ .rnd x kk := by simpa only [not_exists] using hi
    have hsame : { s with key := k } = (s.setKeys k).setHost t.host := by rw [hhost]; rfl
    rw [hsame]
    exact exec_setKeys_setHost _ _ hother hkey h

section FlagRegister
variable {s : State} {x r : RegIdx}

/-- A register write that changes a register is a write of that register. -/
theorem State.eq_of_reg_setReg_ne {b : Byte} (h : (s.setReg x b).reg r ≠ s.reg r) : x = r := by
  by_contra hx
  exact h (by rw [State.reg_setReg, if_neg (Ne.symm hx)])

/-- A load of registers that changes VF reaches it: `x` is 15. -/
theorem State.eq_flagReg_of_reg_loadRegs_ne
    (h : (s.setRegsFrom 0 (s.dataBytes (x.val + 1))).reg 15 ≠ s.reg 15) : x = 15 := by
  have hle : 15 ≤ x := by
    by_contra hx
    obtain ⟨hkept, -⟩ := s.onlyRegs_loadRegs x
    exact h (hkept 15 hx)
  exact le_antisymm (Fin.le_last x) hle

end FlagRegister

/-- Settles O42: the register writes that are no flag name their destination, which is VF when VF changes; every other
handler leaves the register file alone. -/
theorem onlyTheseInstructionsWriteVF : Obligations.OnlyTheseInstructionsWriteVF := by
  intro i s t h hne
  cases i with
  | addReg x y => exact .inl ⟨x, y, .inl rfl⟩
  | subReg x y => exact .inl ⟨x, y, .inr (.inl rfl)⟩
  | shr x y => exact .inl ⟨x, y, .inr (.inr (.inl rfl))⟩
  | subnReg x y => exact .inl ⟨x, y, .inr (.inr (.inr (.inl rfl)))⟩
  | shl x y => exact .inl ⟨x, y, .inr (.inr (.inr (.inr rfl)))⟩
  | drw x y n => exact .inr (.inl ⟨x, y, n, rfl⟩)
  | ldImm x kk | addImm x kk | rnd x kk =>
    cases h
    obtain rfl := State.eq_of_reg_setReg_ne hne
    exact .inr (.inr (.inl ⟨kk, by simp⟩))
  | ldReg x y | orReg x y | andReg x y | xorReg x y =>
    cases h
    obtain rfl := State.eq_of_reg_setReg_ne hne
    exact .inr (.inr (.inr (.inl ⟨y, by simp⟩)))
  | ldVxDT x =>
    cases h
    obtain rfl := State.eq_of_reg_setReg_ne hne
    exact .inr (.inr (.inr (.inr (.inl rfl))))
  | ldVxK x =>
    cases hk : s.firstKey with
    | none =>
      cases (execLdVxK_waits s x hk).symm.trans h
      exact absurd (State.reg_setPc s _ 15) hne
    | some k =>
      cases (execLdVxK_found s x hk).symm.trans h
      obtain rfl := State.eq_of_reg_setReg_ne hne
      exact .inr (.inr (.inr (.inr (.inr (.inl rfl)))))
  | loadRegs x =>
    simp only [exec, execLoadRegs] at h
    split at h <;> cases h
    · obtain rfl := State.eq_flagReg_of_reg_loadRegs_ne hne
      exact .inr (.inr (.inr (.inr (.inr (.inr rfl)))))
    · exact absurd (State.reg_raiseInHandler s _ 15) hne
  | seImm | sneImm | seReg | sneReg | skp | sknp =>
    cases h
    exact absurd (State.reg_skipIf s _ 15) hne
  | ret | call | ldB | storeRegs =>
    simp only [exec, execRet, execCall, execLdB, execStoreRegs] at h
    split at h <;> cases h <;> exact absurd rfl hne
  | cls | jp | jpV0 | ldI | addI | ldF | ldDTVx | ldSTVx =>
    cases h
    exact absurd rfl hne

end Sys2Proof.Machine
end

section
/-! PROOFS. The sprite (44_display.md R182 to R186): what `Dxyn` leaves on every pixel and in VF, and a second draw over
the first. -/

namespace Sys2Proof.Machine

section Drawn
variable (s : State) (x y : RegIdx) (n : Fin 16)

/-- The bit of the sprite at a row and column, in the byte at `I + row` (R182). -/
theorem State.spriteBit_dataBytes {row : Nat} (hrow : row < n.val) (col : Nat) :
    spriteBit ((s.dataBytes n.val).getD row 0) col = (s.byte (s.I.toNat + row)).getLsbD (7 - col) := by
  rw [State.dataBytes_getD _ _ _ hrow, spriteBit, State.byte]

theorem State.drawn_pixel {row col : Nat} (hrow : row < n.val) (hcol : col < 8) :
    (s.drawn x y n.val).fb[wrapRow ((s.reg y).toNat + row)][wrapCol ((s.reg x).toNat + col)] =
      Bool.xor (s.pixel (wrapRow ((s.reg y).toNat + row)) (wrapCol ((s.reg x).toNat + col)))
        ((s.byte (s.I.toNat + row)).getLsbD (7 - col)) := by
  have hlen : 0 + (s.dataBytes n.val).length ≤ 16 := by rw [State.length_dataBytes]; omega
  have hin : row < 0 + (s.dataBytes n.val).length := by rw [State.length_dataBytes]; omega
  have hdraw := Canvas.drawRows_pixel ⟨s.fb, false⟩ ((s.reg x).toNat % 64) ((s.reg y).toNat % 32) 0 _ row col hlen
    (Nat.zero_le row) hin hcol
  simp only [wrapRow_mod, wrapCol_mod, Nat.sub_zero, State.spriteBit_dataBytes s n hrow] at hdraw
  exact hdraw

theorem State.drawn_pixel_other {py : Fin 32} {px : Fin 64} (h : ∀ row col, row < n.val → col < 8 →
      ¬ (py = wrapRow ((s.reg y).toNat + row) ∧ px = wrapCol ((s.reg x).toNat + col))) :
    (s.drawn x y n.val).fb[py][px] = s.pixel py px := by
  refine Canvas.drawRows_pixel_other ⟨s.fb, false⟩ _ _ 0 _ py px fun row col _ hrow hcol => ?_
  rw [State.length_dataBytes, Nat.zero_add] at hrow
  rw [wrapRow_mod, wrapCol_mod]
  exact h row col hrow hcol

theorem State.drawn_hit : (s.drawn x y n.val).hit = true ↔ ∃ row col, row < n.val ∧ col < 8 ∧
    (s.byte (s.I.toNat + row)).getLsbD (7 - col) = true ∧
    s.pixel (wrapRow ((s.reg y).toNat + row)) (wrapCol ((s.reg x).toNat + col)) = true := by
  have hlen : 0 + (s.dataBytes n.val).length ≤ 16 := by rw [State.length_dataBytes]; omega
  have hdraw := Canvas.drawRows_hit ⟨s.fb, false⟩ ((s.reg x).toNat % 64) ((s.reg y).toNat % 32) 0 _ hlen
  refine hdraw.trans ⟨?_, ?_⟩
  · rintro (h | ⟨row, col, -, hrow, hcol, hbit, hpixel⟩)
    · cases h
    · rw [State.length_dataBytes, Nat.zero_add] at hrow
      rw [Nat.sub_zero, State.spriteBit_dataBytes s n hrow] at hbit
      simp only [wrapRow_mod, wrapCol_mod] at hpixel
      exact ⟨row, col, hrow, hcol, hbit, hpixel⟩
  · rintro ⟨row, col, hrow, hcol, hbit, hpixel⟩
    refine .inr ⟨row, col, Nat.zero_le row, by rwa [State.length_dataBytes, Nat.zero_add], hcol, ?_, ?_⟩
    · rwa [Nat.sub_zero, State.spriteBit_dataBytes s n hrow]
    · simpa only [wrapRow_mod, wrapCol_mod, State.pixel] using hpixel

/-- The frame of a draw: the screen, and VF. -/
theorem State.onlyScreen_setFb_setReg (f : Framebuffer) (r : RegIdx) (b : Byte) :
    OnlyScreen (· = r) s ((s.setFb f).setReg r b) := by
  obtain ⟨hreg, hrest⟩ := s.onlyScreen_setFb f (· = r)
  exact ⟨fun q hq => ((s.setFb f).reg_setReg r q b).trans ((if_neg hq).trans (hreg q hq)), hrest⟩

end Drawn

/-- Settles O54: the handler writes the canvas the sprite engine leaves, and its collision detector to VF. -/
theorem drwDrawsTheSprite : Obligations.DrwDrawsTheSprite := by
  intro s x y n hrange
  have hflag : State.reg ((s.setFb (s.drawn x y n.val).fb).setReg 15 (flagByte (s.drawn x y n.val).hit)) 15 =
      flagByte (s.drawn x y n.val).hit := State.reg_setReg_same _ _ _
  refine ⟨_, execDrw_draws s x y n ((s.dataInRange_iff _).2 hrange),
    fun row col hrow hcol => s.drawn_pixel x y n hrow hcol, fun py px h => s.drawn_pixel_other x y n h, ?_, ?_,
    s.onlyScreen_setFb_setReg _ _ _⟩
  · rw [hflag, flagByte_eq_one, State.drawn_hit]
  · rw [hflag]
    exact flagByte_zero_or_one _

/-- Settles O55: the second draw goes over the same pixels with the same bits, and a bit goes in and out again by
exclusive or; where the bit is 1, it finds the first draw's pixel, which is not the one before it. -/
theorem drwTwiceRestoresTheScreen : Obligations.DrwTwiceRestoresTheScreen := by
  intro s x y n hrange
  obtain ⟨t, ht, htdrawn, htother, -, -, -, -, htI, -, -, htmem, -⟩ := drwDrawsTheSprite s x y n hrange
  refine ⟨t, ht, fun u hufb humem huI hux huy => ?_⟩
  have hI : u.I = s.I := huI.trans htI
  have hbyte : ∀ a, u.byte a = s.byte a := fun a => by rw [State.byte, humem]; exact htmem a
  have hpixel : ∀ py px, u.pixel py px = t.pixel py px := fun py px => by rw [State.pixel, hufb, State.pixel]
  obtain ⟨v, hv, hvdrawn, hvother, hvflag, -⟩ := drwDrawsTheSprite u x y n (by rwa [hI])
  simp only [hux, huy, hI, hbyte, hpixel] at hvdrawn hvother hvflag
  refine ⟨v, hv, fun py px => ?_, hvflag.trans ?_⟩
  · by_cases hin : ∃ row col, row < n.val ∧ col < 8 ∧ py = wrapRow ((s.reg y).toNat + row) ∧
        px = wrapCol ((s.reg x).toNat + col)
    · obtain ⟨row, col, hrow, hcol, rfl, rfl⟩ := hin
      rw [hvdrawn row col hrow hcol, htdrawn row col hrow hcol, Bool.xor_assoc, Bool.xor_self, Bool.xor_false]
    · have hout : ∀ row col, row < n.val → col < 8 →
          ¬ (py = wrapRow ((s.reg y).toNat + row) ∧ px = wrapCol ((s.reg x).toNat + col)) :=
        fun row col hrow hcol hat => hin ⟨row, col, hrow, hcol, hat⟩
      rw [hvother py px hout, htother py px hout]
  · refine exists_congr fun row => exists_congr fun col => and_congr_right fun hrow => and_congr_right fun hcol =>
      and_congr_right fun hbit => ?_
    rw [htdrawn row col hrow hcol, hbit, Bool.xor_true, Bool.not_eq_true']

end Sys2Proof.Machine
end
